-- ==== Sys2Proof/Word.lean ====
section
/-! DEFINITION. The word types of the MFV's register interface (spec 00_scope.md R7 to R9): a byte of the
wire, a 16-bit register or datum, a 9-bit word address. -/

namespace Sys2Proof

/-- One byte of a request or of a response (R10). -/
abbrev Byte := BitVec 8

/-- A register value or a datum: `REG_W` = 16 bits (R8). -/
abbrev Word := BitVec 16

/-- A host word address: `ADDR_W` = 9 bits, 0x000..0x1FF (R8, R60). -/
abbrev Addr := BitVec 9

end Sys2Proof
end

