-- ==== Sys2Proof/Config.lean ====
section
/-! DEFINITION. The OPEN parameters of the spec (00_scope.md R8, 92_eei_decisions.md "OPEN parameters",
93_implementation_defined.md I1 and I2). The fixed rows of R8's table stand in Machine/Operands.lean. -/

namespace Sys2Proof

/-- The two parameters "the model takes as arguments, each an integer in 0..251" (R8). State carries one
`Params`, no step changes it, and a statement over all states holds for every value of it (log entry 4). -/
structure Params where
  /-- `GEN2_MIN`: least payload bytes of a Gen2 response. -/
  gen2Min : Fin 252
  /-- `R6_MIN`: least payload bytes of an R6 response. -/
  r6Min : Fin 252
  deriving DecidableEq, Repr

/-- The defaults R8 states: `GEN2_MIN` 105, `R6_MIN` 114. -/
def Params.default : Params := ⟨105, 114⟩

end Sys2Proof
end

