-- ==== Sys2Proof/Syntax.lean ====
section
/-! DEFINITION. The instructions: one constructor per row of spec/opcode_table.json, 15 command words
(30_encoding.md R83) and 7 bus transactions (R88). -/

namespace Sys2Proof

/-- What the host can ask of the block in one transaction. A constructor's docstring gives the spec's
spelling of the row and the rule of its meaning. -/
inductive Instr where
  /-- `NOP` (R190). -/
  | nop
  /-- `RESET` (R191). -/
  | reset
  /-- `CRC.INIT` (R105). -/
  | crcInit
  /-- `CRC.FEED b` (R106). -/
  | crcFeed (b : Byte)
  /-- `BUILD` (R125). -/
  | build
  /-- `BUILD.DI` (R126). -/
  | buildDi
  /-- `BUILD.G2` (R127). -/
  | buildG2
  /-- `BUILD.R6` (R128). -/
  | buildR6
  /-- `RECV.RAW` (R141). -/
  | recvRaw
  /-- `PUSH b` (R142). -/
  | push (b : Byte)
  /-- `FINISH` (R149). -/
  | finish
  /-- `ABORT.TO` (R152). -/
  | abortTo
  /-- `ABORT.CAN` (R153). -/
  | abortCan
  /-- `ACK` (R192). -/
  | ack
  /-- `CLR.ERR m` (R193). -/
  | clrErr (m : Byte)
  /-- `WR START, d` (R196). -/
  | wrStart (d : Word)
  /-- `WR COUNT, d` (R197). -/
  | wrCount (d : Word)
  /-- `WR CFG, d` (R198). -/
  | wrCfg (d : Word)
  /-- `WR CMD, w`: execute the command word `w` (R195). -/
  | wrCmd (w : Word)
  /-- `WR other`: a Write to a read-only or reserved address (R195). -/
  | wrOther (a : Addr) (d : Word)
  /-- `RD a` (R199). -/
  | rd (a : Addr)
  /-- `HWRESET`: the hardware reset input (R240). -/
  | hwreset
  deriving DecidableEq, Repr

/-- The constructors that are command words, the rows of format CMD16 (R83). -/
def Instr.isCommand : Instr → Bool
  | .nop | .reset | .crcInit | .crcFeed _ | .build | .buildDi | .buildG2 | .buildR6 | .recvRaw
  | .push _ | .finish | .abortTo | .abortCan | .ack | .clrErr _ => true
  | .wrStart _ | .wrCount _ | .wrCfg _ | .wrCmd _ | .wrOther _ _ | .rd _ | .hwreset => false

/-- The arm commands, "the commands that start a receive" (00_scope.md §6, R211). -/
def Instr.isArm : Instr → Bool
  | .build | .buildDi | .buildG2 | .buildR6 | .recvRaw => true
  | .nop | .reset | .crcInit | .crcFeed _ | .push _ | .finish | .abortTo | .abortCan | .ack
  | .clrErr _ | .wrStart _ | .wrCount _ | .wrCfg _ | .wrCmd _ | .wrOther _ _ | .rd _
  | .hwreset => false

end Sys2Proof
end

