-- ==== Sys2Proof/WellFormed.lean ====
section
/-! DEFINITION. Which terms of Instr stand for exactly one transaction of the host (30_encoding.md R83, R84,
44_control.md R195). -/

namespace Sys2Proof

/-- One row of the opcode map R83 as the opcode table writes it: the bits the row fixes and their value. -/
structure CommandRow where
  mask : Word
  pattern : Word
  deriving DecidableEq, Repr

/-- "with every field the row fixes equal to the row's value" (R84). -/
def CommandRow.covers (r : CommandRow) (w : Word) : Bool := w &&& r.mask == r.pattern

/-- The fifteen rows of R83, in the table's order. -/
def commandRows : List CommandRow :=
  [⟨0xFFFF, 0x0000⟩, ⟨0xFFFF, 0x1000⟩, ⟨0xFFFF, 0x2000⟩, ⟨0xFF00, 0x3000⟩, ⟨0xFFFF, 0x4000⟩,
   ⟨0xFFFF, 0x4100⟩, ⟨0xFFFF, 0x4200⟩, ⟨0xFFFF, 0x4300⟩] ++
  [⟨0xFFFF, 0x5000⟩, ⟨0xFF00, 0x6000⟩, ⟨0xFFFF, 0x7000⟩, ⟨0xFFFF, 0x8000⟩, ⟨0xFFFF, 0x8100⟩,
   ⟨0xFFFF, 0x9000⟩, ⟨0xFF00, 0xA000⟩]

/-- "a word is a command exactly when it matches a row of rule R83" (R84). -/
def isCommandWord (w : Word) : Bool := commandRows.any (·.covers w)

/-- The four addresses a Write acts on: CMD, START, COUNT, CFG (R61, R195). -/
def isWritable (a : Addr) : Bool := a == 0x000 || a == 0x003 || a == 0x004 || a == 0x005

/-- The canonical terms, one for each transaction of the host: `wrOther` is not used for an address that a
Write acts on, and a Write of a legal word to CMD is written as its command, so `wrCmd` is used for the
illegal words (log entry 7). The MEANING of every term, canonical or not, is total. -/
def Instr.wellFormed : Instr → Bool
  | .nop | .reset | .crcInit | .crcFeed _ | .build | .buildDi | .buildG2 | .buildR6 | .recvRaw
  | .push _ | .finish | .abortTo | .abortCan | .ack | .clrErr _ => true
  | .wrStart _ | .wrCount _ | .wrCfg _ | .rd _ | .hwreset => true
  | .wrCmd w => !isCommandWord w
  | .wrOther a _ => !isWritable a

end Sys2Proof
end

