-- ==== Sys2Proof/Decode.lean ====
section
/-! DEFINITION. The encodings: command words (30_encoding.md R80 to R87), host transactions (R88), the
assembly lines (R89, R90), the decoder and, after it, the encoder. -/

namespace Sys2Proof

/-! ### Fields of a command word (R81, R82) -/

/-- `OP = w[15:12]`. -/
def opField (w : Word) : BitVec 4 := w.extractLsb' 12 4

/-- `SUB = w[11:8]`. -/
def subField (w : Word) : BitVec 4 := w.extractLsb' 8 4

/-- `IMM = w[7:0]`. -/
def immField (w : Word) : Byte := w.extractLsb' 0 8

/-- `w[11:0]`, the bits below `OP`. -/
def belowOp (w : Word) : BitVec 12 := w.extractLsb' 0 12

/-! ### The decoder of command words -/

/-- Why a word is no command: the classes (a) to (e) of R84. -/
inductive IllegalWord where
  /-- (a): `OP` in 0xB..0xF. -/
  | unassignedOp
  /-- (b): a command without operand with `w[11:0] != 0`. -/
  | operandBits
  /-- (c): CRC.FEED, PUSH or CLR.ERR with `SUB != 0`. -/
  | subNotZero
  /-- (d): the BUILD family with `SUB` in 4..15 or `IMM != 0`. -/
  | buildField
  /-- (e): the ABORT family with `SUB` in 2..15 or `IMM != 0`. -/
  | abortField
  deriving DecidableEq, Repr

/-- A command that fixes every bit below `OP` (R87). -/
def decodeFixed (w : Word) (i : Instr) : Except IllegalWord Instr :=
  if belowOp w = 0 then .ok i else .error .operandBits

/-- A command whose operand is `IMM` (R87). -/
def decodeByte (w : Word) (mk : Byte → Instr) : Except IllegalWord Instr :=
  if subField w = 0 then .ok (mk (immField w)) else .error .subNotZero

/-- `BUILD_FAMILY(SUB)` (R87). -/
def decodeBuild (w : Word) : Except IllegalWord Instr :=
  if immField w = 0 then
    match (subField w).toNat with
    | 0 => .ok .build
    | 1 => .ok .buildDi
    | 2 => .ok .buildG2
    | 3 => .ok .buildR6
    | _ => .error .buildField
  else .error .buildField

/-- `ABORT(SUB)` (R87). -/
def decodeAbort (w : Word) : Except IllegalWord Instr :=
  if immField w = 0 then
    match (subField w).toNat with
    | 0 => .ok .abortTo
    | 1 => .ok .abortCan
    | _ => .error .abortField
  else .error .abortField

/-- The decoder of R87, total on every 16-bit word; it reads no block state. -/
def decodeCommand (w : Word) : Except IllegalWord Instr :=
  match (opField w).toNat with
  | 0x0 => decodeFixed w .nop
  | 0x1 => decodeFixed w .reset
  | 0x2 => decodeFixed w .crcInit
  | 0x3 => decodeByte w .crcFeed
  | 0x4 => decodeBuild w
  | 0x5 => decodeFixed w .recvRaw
  | 0x6 => decodeByte w .push
  | 0x7 => decodeFixed w .finish
  | 0x8 => decodeAbort w
  | 0x9 => decodeFixed w .ack
  | 0xA => decodeByte w .clrErr
  | _ => .error .unassignedOp

/-! ### Host transactions (R7, R88) -/

/-- One transaction of the host, encoded as (kind, address, datum). -/
inductive HostTxn where
  /-- `Write(a, d)`. -/
  | write (a : Addr) (d : Word)
  /-- `Read(a)`. -/
  | read (a : Addr)
  /-- `Reset`, the hardware reset input. -/
  | reset
  deriving DecidableEq, Repr

/-- The instruction a transaction stands for: the address selects the row (R195, R199, R240), and a Write to
CMD is the command its word encodes, or the illegal word itself. -/
def decodeTxn : HostTxn → Instr
  | .write a d =>
    if a = 0x000 then
      match decodeCommand d with
      | .ok i => i
      | .error _ => .wrCmd d
    else if a = 0x003 then .wrStart d
    else if a = 0x004 then .wrCount d
    else if a = 0x005 then .wrCfg d
    else .wrOther a d
  | .read a => .rd a
  | .reset => .hwreset

/-- The instruction read from a word numbered as opcode_table.json numbers it: a command is one 16-bit word
(R80), so a longer word is none, and a shorter one has zeros above. The rows of format BUS have no bits in the
table (log entry 8). -/
def decodeTableWord (nbits w : Nat) : Option Instr :=
  if nbits ≤ 16 then
    match decodeCommand (BitVec.ofNat 16 (w % 2 ^ nbits)) with
    | .ok i => some i
    | .error _ => none
  else none

/-! ### The encoder -/

/-- A command word from its three fields (R81). -/
def commandWord (op sub : BitVec 4) (imm : Byte) : Word := op ++ sub ++ imm

/-- The Write to CMD (address 0x000) that carries a command word (R80, R89). -/
def cmdWrite (op sub : BitVec 4) (imm : Byte) : HostTxn := .write 0x000 (commandWord op sub imm)

/-- The transaction of an instruction: the fields of R83 for a command, the (kind, address, datum) of R88 for
a bus row. -/
def encode : Instr → HostTxn
  | .nop => cmdWrite 0x0 0x0 0x00
  | .reset => cmdWrite 0x1 0x0 0x00
  | .crcInit => cmdWrite 0x2 0x0 0x00
  | .crcFeed b => cmdWrite 0x3 0x0 b
  | .build => cmdWrite 0x4 0x0 0x00
  | .buildDi => cmdWrite 0x4 0x1 0x00
  | .buildG2 => cmdWrite 0x4 0x2 0x00
  | .buildR6 => cmdWrite 0x4 0x3 0x00
  | .recvRaw => cmdWrite 0x5 0x0 0x00
  | .push b => cmdWrite 0x6 0x0 b
  | .finish => cmdWrite 0x7 0x0 0x00
  | .abortTo => cmdWrite 0x8 0x0 0x00
  | .abortCan => cmdWrite 0x8 0x1 0x00
  | .ack => cmdWrite 0x9 0x0 0x00
  | .clrErr m => cmdWrite 0xA 0x0 m
  | .wrStart d => .write 0x003 d
  | .wrCount d => .write 0x004 d
  | .wrCfg d => .write 0x005 d
  | .wrCmd w => .write 0x000 w
  | .wrOther a d => .write a d
  | .rd a => .read a
  | .hwreset => .reset

/-- The instruction a term's transaction decodes to: the command itself for a legal `wrCmd w`, the Write that
acts for an ill-formed `wrOther`, and otherwise the term (log entry 7). -/
def Instr.canonical (i : Instr) : Instr := decodeTxn (encode i)

/-! ### Register names and assembly lines (R61, R89, R90) -/

/-- The register names of the address map R61. -/
inductive RegName where
  | cmd | status | err | start | count | cfg | crc | explen | rxlen | flen | fcrc | rcrc | hdr
  | bytecnt | paylen | txlen
  | txbuf (k : Fin 8)
  | frame (i : Fin 256)
  deriving DecidableEq, Repr

/-- `addr(reg)`: the address the map R61 gives a register. -/
def RegName.addr : RegName → Addr
  | .cmd => 0x000
  | .status => 0x001
  | .err => 0x002
  | .start => 0x003
  | .count => 0x004
  | .cfg => 0x005
  | .crc => 0x006
  | .explen => 0x007
  | .rxlen => 0x008
  | .flen => 0x009
  | .fcrc => 0x00A
  | .rcrc => 0x00B
  | .hdr => 0x00C
  | .bytecnt => 0x00D
  | .paylen => 0x00E
  | .txlen => 0x00F
  | .txbuf k => 0x010 + BitVec.ofNat 9 k.val
  | .frame i => 0x100 + BitVec.ofNat 9 i.val

/-- A line of a host program (R89) or a pseudo-instruction (R90). -/
inductive AsmLine where
  /-- A mnemonic of R89's first two rows. -/
  | mnemonic (i : Instr)
  /-- `WR reg, v`, the address already looked up. -/
  | wr (a : Addr) (v : Word)
  /-- `RD reg`, the address already looked up. -/
  | rd (a : Addr)
  /-- `HWRESET`. -/
  | hwreset
  /-- `.word w`. -/
  | word (w : Word)
  /-- `PUSHS b0 ... bk`. -/
  | pushs (bs : List Byte)
  /-- `CRC.FEEDS b0 ... bk`. -/
  | crcFeeds (bs : List Byte)
  /-- `REQ s, n`. -/
  | req (s n : Word)
  /-- `CLR.ERR.ALL`. -/
  | clrErrAll
  deriving DecidableEq, Repr

/-- The transactions a line stands for, "each an exact expansion" (R90). -/
def AsmLine.expand : AsmLine → List HostTxn
  | .mnemonic i => [encode i]
  | .wr a v => [.write a v]
  | .rd a => [.read a]
  | .hwreset => [.reset]
  | .word w => [.write 0x000 w]
  | .pushs bs => bs.map fun b => encode (.push b)
  | .crcFeeds bs => bs.map fun b => encode (.crcFeed b)
  | .req s n => [.write 0x003 s, .write 0x004 n, encode .build]
  | .clrErrAll => [encode (.clrErr 0x0F)]

end Sys2Proof
end

