-- ==== Sys2Proof/Machine/State.lean ====
section
/-! DEFINITION. The state of the block (10_state.md R20), the reasons a step could stop, and the state after
reset (R46). -/

namespace Sys2Proof.Machine

/-- `STATE`, the receive state machine (R23). The value 3 is written by no rule (log entry 3). -/
inductive RxState where
  | idle | armed | done
  deriving DecidableEq, Repr

/-- `KIND`, the command that armed the receiver (R27). The values 5..7 are written by no rule. -/
inductive Kind where
  | custom | devinfo | gen2 | r6 | raw
  deriving DecidableEq, Repr

/-- `RESULT`, the typed outcome of the last request (R28, R214). The codes 9..15 are written by no rule. -/
inductive Result where
  | none | ok | invalidRequest | malformedFrame | crcMismatch | insufficientData | timedOut
  | cancelled | overflow
  deriving DecidableEq, Repr

/-- The command errors, one sticky ERR bit each (R211). -/
inductive CmdError where
  | illegalCmd | busy | notArmed | badAddr
  deriving DecidableEq, Repr

/-- `TXBUF`, the 8 bytes of the last built request (R44). -/
structure TxBuf where
  b0 : Byte
  b1 : Byte
  b2 : Byte
  b3 : Byte
  b4 : Byte
  b5 : Byte
  b6 : Byte
  b7 : Byte
  deriving DecidableEq, Repr

/-- The block's state is exactly R20's list. The last three fields are the model's own: the OPEN parameters
(log entry 4), the transactions the host has issued and the block has not taken yet (log entry 1), and the
datum the latest Read returned to the host (log entry 2). -/
structure State where
  /-- `STATE` (R23). -/
  state : RxState
  /-- `MARKER`: the marker byte was seen and is stripped (R25). -/
  marker : Bool
  /-- `KIND` (R27). -/
  kind : Kind
  /-- `RESULT` (R28). -/
  result : Result
  /-- `ERR`: sticky command-error bits (R30). -/
  err : BitVec 4
  /-- `START` (R31). -/
  start : Word
  /-- `COUNT` (R32). -/
  count : Word
  /-- `CFG`: interrupt enables (R33). -/
  cfg : BitVec 2
  /-- `CRC`: the stand-alone engine's register (R34). -/
  crc : Word
  /-- `EXPLEN`: expected total receive length (R35). -/
  explen : BitVec 9
  /-- `buf`: the bytes received for the current or last frame, oldest first (R36). -/
  buf : List Byte
  /-- `TXBUF` (R44). -/
  txbuf : TxBuf
  /-- `TXLEN`: number of valid request bytes, 0 or 8 (R44). -/
  txlen : BitVec 4
  /-- The OPEN parameters; no step writes them. -/
  params : Params
  /-- Host transactions issued and not taken yet, oldest first. -/
  pending : List HostTxn
  /-- The datum the latest Read returned. -/
  readData : Option Word
  deriving DecidableEq, Repr

/-- The reasons the block stops with a fault: there are none. "The block has no trap, exception vector, saved
state or return-from-trap mechanism" (R210) and "the block halts never" (R246). Every error is a bit of ERR or
a code of RESULT, and the machine goes on. -/
inductive Fault
  deriving DecidableEq, Repr

/-- The reasons a step has no meaning. -/
inductive Refusal where
  /-- Raised by `exec`'s arm of an instruction that has no meaning yet; safe. No arm raises it now. -/
  | notModelled (mnemonic : String)
  deriving DecidableEq, Repr

/-- The state after the hardware reset input or RESET: every value of R46's table. The parameters are at the
defaults of R8, nothing is pending and nothing has been read (log entries 1, 2, 4). -/
def State.reset : State where
  state := .idle
  marker := false
  kind := .custom
  result := .none
  err := 0x0
  start := 0x0000
  count := 0x0000
  cfg := 0b00
  crc := 0xFFFF
  explen := 0
  buf := []
  txbuf := ⟨0x00, 0x00, 0x00, 0x00, 0x00, 0x00, 0x00, 0x00⟩
  txlen := 0
  params := Params.default
  pending := []
  readData := Option.none

end Sys2Proof.Machine
end

