-- ==== Sys2Proof/Machine/Flags.lean ====
section
/-! DEFINITION. Field codes, ERR bits, the interrupt level and the STATUS word (10_state.md R23, R27, R29, R30;
60_exceptions.md R211, R214, R220). -/

namespace Sys2Proof.Machine

/-- The values of R23. -/
def RxState.code : RxState → BitVec 2
  | .idle => 0
  | .armed => 1
  | .done => 2

/-- The values of R27. -/
def Kind.code : Kind → BitVec 3
  | .custom => 0
  | .devinfo => 1
  | .gen2 => 2
  | .r6 => 3
  | .raw => 4

/-- The codes of R214. -/
def Result.code : Result → BitVec 4
  | .none => 0
  | .ok => 1
  | .invalidRequest => 2
  | .malformedFrame => 3
  | .crcMismatch => 4
  | .insufficientData => 5
  | .timedOut => 6
  | .cancelled => 7
  | .overflow => 8

/-- The ERR bit of a command error, as a one-hot value (R30, R211). -/
def CmdError.bit : CmdError → BitVec 4
  | .illegalCmd => 0b0001
  | .busy => 0b0010
  | .notArmed => 0b0100
  | .badAddr => 0b1000

/-- `IRQ = (CFG[0] = 1 and STATE = DONE) or (CFG[1] = 1 and ERR != 0)`, a level (R220). -/
def irq (s : State) : Bool :=
  (s.cfg.getLsbD 0 && decide (s.state = .done)) || (s.cfg.getLsbD 1 && decide (s.err ≠ 0))

/-- A one-bit field as a word. -/
def flagWord (b : Bool) : Word := if b then 1 else 0

/-- `STATE | MARKER << 2 | IRQ << 3 | KIND << 4 | RESULT << 8` (R29). -/
def statusWord (s : State) : Word :=
  s.state.code.setWidth 16 ||| flagWord s.marker <<< 2 ||| flagWord (irq s) <<< 3 |||
    s.kind.code.setWidth 16 <<< 4 ||| s.result.code.setWidth 16 <<< 8

end Sys2Proof.Machine
end

