-- ==== Sys2Proof/Machine/Operands.lean ====
section
/-! DEFINITION. The operands: the fixed parameters of 00_scope.md R8, byte-order helpers (R65, R66, R103), the
presets (R129), the request bytes (R123), the mask of CLR.ERR (R82) and the frame view (R37). -/

namespace Sys2Proof.Machine

/-! ### Fixed parameters (R8) -/

/-- `DEV_ADDR`. -/
abbrev devAddr : Byte := 0x01

/-- `FUNC`: read holding registers. -/
abbrev funcCode : Byte := 0x03

/-- `COUNT_MIN`. -/
abbrev countMin : Nat := 2

/-- `COUNT_MAX`. -/
abbrev countMax : Nat := 125

/-- `MARKER_BYTE`. -/
abbrev markerByte : Byte := 0x32

/-- `CRC_INIT`. -/
abbrev crcInitValue : Word := 0xFFFF

/-- `CRC_POLY`. -/
abbrev crcPoly : Word := 0xA001

/-- `RXCAP`. -/
abbrev rxCap : Nat := 256

/-! ### Bytes and words -/

/-- `w[7:0]`. -/
def loByte (w : Word) : Byte := w.extractLsb' 0 8

/-- `w[15:8]`. -/
def hiByte (w : Word) : Byte := w.extractLsb' 8 8

/-- `zext_16(lo) | zext_16(hi) << 8`: two CRC bytes, low byte first (R40, R104). -/
def wordOfBytes (lo hi : Byte) : Word := lo.setWidth 16 ||| hi.setWidth 16 <<< 8

/-- `zext_16` of a byte (R9, R62). -/
def zextByte (b : Byte) : Word := b.setWidth 16

/-! ### Requests -/

/-- A start register and a register count. -/
structure Request where
  start : Word
  count : Word
  deriving DecidableEq, Repr

/-- DeviceInfo (R126, R129). -/
def presetDeviceInfo : Request := ⟨0x8F00, 13⟩

/-- RealtimeGen2 (R127, R129). -/
def presetGen2 : Request := ⟨0x0100, 59⟩

/-- RealtimeR6 (R128, R129). -/
def presetR6 : Request := ⟨0x6004, 95⟩

/-- The custom request of BUILD: the registers START and COUNT (R125). -/
def customRequest (s : State) : Request := ⟨s.start, s.count⟩

/-- "A count n is legal exactly when 2 <= n <= 125" (R122). -/
def countLegal (n : Word) : Bool := decide (countMin ≤ n.toNat ∧ n.toNat ≤ countMax)

/-- The six request bytes the CRC covers, start and count big-endian (R123, R65). -/
def requestBody (r : Request) : List Byte :=
  [devAddr, funcCode, hiByte r.start, loByte r.start, hiByte r.count, loByte r.count]

/-- The expected response length without marker, `5 + 2n` (R124). -/
def expectedLength (r : Request) : BitVec 9 := BitVec.ofNat 9 (5 + 2 * r.count.toNat)

/-- The bytes of TXBUF in index order (R44). -/
def txBytes (t : TxBuf) : List Byte := [t.b0, t.b1, t.b2, t.b3, t.b4, t.b5, t.b6, t.b7]

/-! ### The mask of CLR.ERR -/

/-- `mask = w[3:0]`; bits 7:4 address no ERR bit (R82). -/
def errMask (m : Byte) : BitVec 4 := m.extractLsb' 0 4

/-! ### The frame view -/

/-- `F`: `buf` without its first byte when `MARKER = 1` (R37). -/
def frame (s : State) : List Byte := if s.marker then s.buf.drop 1 else s.buf

/-- `payload_len(F) = max(|F| - 5, 0)` (R172). -/
def payloadLen (f : List Byte) : Nat := f.length - 5

end Sys2Proof.Machine
end

