-- ==== Sys2Proof/Machine/Ops.lean ====
section
/-! DEFINITION. The shared operations: the CRC function (40_crc.md), the command error (60_exceptions.md R212),
the verdict, `finish` and `complete` (43_parse.md), the build procedure (41_request.md R120), the abort procedure
(42_receive.md R150), reset (70_reset_and_hazards.md R240), and taking the host's next transaction. -/

namespace Sys2Proof.Machine

/-! ### The CRC function -/

/-- One turn of the loop of R100: shift right, folding in the polynomial when the bit shifted out is 1. -/
def crcShift (c : Word) : Word := if c.getLsbD 0 then (c >>> 1) ^^^ crcPoly else c >>> 1

/-- `crc_step(c, b)`: fold one byte, eight turns (R100). -/
def crcStep (c : Word) (b : Byte) : Word := Nat.repeat crcShift 8 (c ^^^ zextByte b)

/-- `crc16(S)` (R101). -/
def crc16 (bs : List Byte) : Word := bs.foldl crcStep crcInitValue

/-- The table entry `T[i] = crc_step(0x0000, i)` (R102). -/
def crcTable (i : Byte) : Word := crcStep 0x0000 i

/-- The table-driven form (R102). -/
def crc16Table (bs : List Byte) : Word :=
  bs.foldl (fun c b => (c >>> 8) ^^^ crcTable (loByte (c ^^^ zextByte b))) crcInitValue

/-- A CRC as it is appended to a frame: low byte first (R103). -/
def crcBytes (c : Word) : List Byte := [loByte c, hiByte c]

/-- `crc_ok(F)`: the last two bytes are the CRC of all bytes before them (R104). -/
def crcOk (f : List Byte) : Bool :=
  decide (crc16 (f.take (f.length - 2)) =
    wordOfBytes (f.getD (f.length - 2) 0) (f.getD (f.length - 1) 0))

/-! ### Errors and results -/

/-- `raise E()`: the ERR bit of `E` is set and nothing else changes (R212). The block's only error operation:
it has no trap (R210). -/
def raise (e : CmdError) (s : State) : State := { s with err := s.err ||| e.bit }

/-- `verdict(F, k)`, the first failing step decides (R176). -/
def verdict (p : Params) (f : List Byte) (k : Kind) : Result :=
  if f.length < 3 then .malformedFrame
  else if crcOk f = false then .crcMismatch
  else if k = .gen2 ∧ payloadLen f < p.gen2Min.val then .insufficientData
  else if k = .r6 ∧ payloadLen f < p.r6Min.val then .insufficientData
  else .ok

/-- `finish(r)`: record the result; on every result but OK the buffer and MARKER are cleared (R175). -/
def finishWith (r : Result) (s : State) : State :=
  { s with
    result := r
    state := .done
    buf := if r = .ok then s.buf else []
    marker := if r = .ok then s.marker else false }

/-- `complete()`: the verdict on the frame view, recorded (R170). -/
def complete (s : State) : State := finishWith (verdict s.params (frame s) s.kind) s

/-! ### Arming -/

/-- TXBUF for a request: its six bytes and their CRC, low byte first (R123). -/
def requestBuf (r : Request) : TxBuf :=
  let c := crc16 (requestBody r)
  ⟨devAddr, funcCode, hiByte r.start, loByte r.start, hiByte r.count, loByte r.count, loByte c, hiByte c⟩

/-- `build(k, s, n)` (R120), with BUSY first (R121) and then the count range (R122). -/
def buildRequest (k : Kind) (r : Request) (s : State) : State :=
  if s.state = .armed then raise .busy s
  else if countLegal r.count then
    { s with
      kind := k, marker := false, buf := [], txbuf := requestBuf r, txlen := 8,
      explen := expectedLength r, result := .none, state := .armed }
  else
    { s with
      kind := k, marker := false, buf := [], txlen := 0, explen := 0, result := .invalidRequest,
      state := .done }

/-! ### Ending a receive, reset -/

/-- `abort(r)` (R150); outside ARMED it has no effect and is no error (R151). -/
def abortWith (r : Result) (s : State) : State := if s.state = .armed then finishWith r s else s

/-- Reset from either source: every piece of the block's state takes its value of R46 (R240). The parameters
and the host's side of the port are not state of the block and stay (log entries 1, 2, 4). -/
def resetBlock (s : State) : State :=
  { State.reset with params := s.params, pending := s.pending, readData := s.readData }

/-! ### The host's transactions -/

/-- The oldest pending transaction and the state without it (R68). -/
def takeTxn (s : State) : Option (HostTxn × State) :=
  match s.pending with
  | [] => none
  | t :: ts => some (t, { s with pending := ts })

/-- Place a transaction before all pending ones, so that the next step takes it. -/
def issueNext (t : HostTxn) (s : State) : State := { s with pending := t :: s.pending }

end Sys2Proof.Machine
end

