-- ==== Sys2Proof/Machine/Control.lean ====
section
/-! DEFINITION. The control commands: NOP, RESET, ACK, CLR.ERR (44_control.md R190 to R193). -/

namespace Sys2Proof.Machine

/-- `NOP` (R190). -/
def execNop (s : State) : Host.Outcome State Fault Refusal := .next s

/-- `RESET` (R191): as the hardware reset input. -/
def execReset (s : State) : Host.Outcome State Fault Refusal := .next (resetBlock s)

/-- `ACK` (R192): `if R.STATE = DONE then R.STATE <- IDLE`. -/
def execAck (s : State) : Host.Outcome State Fault Refusal :=
  .next (if s.state = .done then { s with state := .idle } else s)

/-- `CLR.ERR m` (R193): `R.ERR <- R.ERR & ~m[3:0]`. -/
def execClrErr (m : Byte) (s : State) : Host.Outcome State Fault Refusal :=
  .next { s with err := s.err &&& ~~~(errMask m) }

end Sys2Proof.Machine
end

