-- ==== Sys2Proof/Machine/Crc.lean ====
section
/-! DEFINITION. The stand-alone CRC engine: CRC.INIT and CRC.FEED (40_crc.md R105, R106, R108). -/

namespace Sys2Proof.Machine

/-- `CRC.INIT` (R105): legal in every STATE. -/
def execCrcInit (s : State) : Host.Outcome State Fault Refusal :=
  .next { s with crc := crcInitValue }

/-- `CRC.FEED b` (R106): legal in every STATE. -/
def execCrcFeed (b : Byte) (s : State) : Host.Outcome State Fault Refusal :=
  .next { s with crc := crcStep s.crc b }

end Sys2Proof.Machine
end

