-- ==== Sys2Proof/Machine/Receive.lean ====
section
/-! DEFINITION. The receive path: RECV.RAW, PUSH, FINISH, ABORT.TO, ABORT.CAN (42_receive.md R141 to R154). -/

namespace Sys2Proof.Machine

/-- `RECV.RAW` (R141): TXBUF keeps its bytes. -/
def execRecvRaw (s : State) : Host.Outcome State Fault Refusal :=
  .next <|
    if s.state = .armed then raise .busy s
    else
      { s with
        kind := .raw, marker := false, buf := [], txlen := 0, explen := 0, result := .none,
        state := .armed }

/-- A byte of a RAW receive: appended, or, at the capacity, discarded with OVERFLOW (R142, R146). -/
def pushRaw (b : Byte) (s : State) : State :=
  if s.buf.length = rxCap then finishWith .overflow s else { s with buf := s.buf ++ [b] }

/-- Marker detection (R143): a first byte 0x32 sets MARKER and raises the expected total by one. -/
def noteMarker (b : Byte) (s : State) : State :=
  if s.buf.length = 0 ∧ b = markerByte then { s with marker := true, explen := s.explen + 1 } else s

/-- Append a byte; the byte that makes `|buf| = EXPLEN` completes the frame (R142, R144). -/
def appendFramed (b : Byte) (s : State) : State :=
  let t := { s with buf := s.buf ++ [b] }
  if t.buf.length = t.explen.toNat then complete t else t

/-- `PUSH b` (R142); outside ARMED the byte is discarded with NOT_ARMED (R154). -/
def execPush (b : Byte) (s : State) : Host.Outcome State Fault Refusal :=
  .next <|
    if s.state = .armed then
      if s.kind = .raw then pushRaw b s else appendFramed b (noteMarker b s)
    else raise .notArmed s

/-- `FINISH` (R149). -/
def execFinish (s : State) : Host.Outcome State Fault Refusal :=
  .next (if s.state = .armed then complete s else raise .notArmed s)

/-- `ABORT.TO` (R152). -/
def execAbortTo (s : State) : Host.Outcome State Fault Refusal := .next (abortWith .timedOut s)

/-- `ABORT.CAN` (R153). -/
def execAbortCan (s : State) : Host.Outcome State Fault Refusal := .next (abortWith .cancelled s)

end Sys2Proof.Machine
end

