-- ==== Sys2Proof/Machine/Request.lean ====
section
/-! DEFINITION. The request builder: BUILD, BUILD.DI, BUILD.G2, BUILD.R6 (41_request.md R125 to R128). -/

namespace Sys2Proof.Machine

/-- `BUILD` (R125): `build(CUSTOM, R.START, R.COUNT)`. -/
def execBuild (s : State) : Host.Outcome State Fault Refusal :=
  .next (buildRequest .custom (customRequest s) s)

/-- `BUILD.DI` (R126). -/
def execBuildDi (s : State) : Host.Outcome State Fault Refusal :=
  .next (buildRequest .devinfo presetDeviceInfo s)

/-- `BUILD.G2` (R127). -/
def execBuildG2 (s : State) : Host.Outcome State Fault Refusal :=
  .next (buildRequest .gen2 presetGen2 s)

/-- `BUILD.R6` (R128). -/
def execBuildR6 (s : State) : Host.Outcome State Fault Refusal :=
  .next (buildRequest .r6 presetR6 s)

end Sys2Proof.Machine
end

