-- ==== Sys2Proof/Machine/Views.lean ====
section
/-! DEFINITION. The read side of the register map (20_memory.md R61, 44_control.md R199): every view of
10_state.md, a pure function of the state. -/

namespace Sys2Proof.Machine

/-- FCRC: the CRC of the frame view without its last two bytes (R39). -/
def fcrc (s : State) : Word := crc16 ((frame s).take ((frame s).length - 2))

/-- RCRC: the received CRC of the frame view, 0 when it has fewer than two bytes (R40). -/
def rcrc (s : State) : Word :=
  let f := frame s
  if 2 ≤ f.length then wordOfBytes (f.getD (f.length - 2) 0) (f.getD (f.length - 1) 0) else 0x0000

/-- HDR: device address in bits 15:8, function code in bits 7:0 (R41). -/
def hdr (s : State) : Word := (frame s).getD 0 0 ++ (frame s).getD 1 0

/-- BYTECNT: the byte-count field (R42). -/
def bytecnt (s : State) : Word := zextByte ((frame s).getD 2 0)

/-- A count of bytes as a 16-bit value. -/
def lengthWord (n : Nat) : Word := BitVec.ofNat 16 n

/-- The word at an address at or above 0x010: the TXBUF window (R44), the reserved range, which reads 0x0000
(R61), and the FRAME window, 0x0000 past the frame (R38). -/
def readWindow (a : Nat) (s : State) : Word :=
  if a < 0x018 then zextByte ((txBytes s.txbuf).getD (a - 0x010) 0)
  else if a < 0x100 then 0x0000
  else zextByte ((frame s).getD (a - 0x100) 0)

/-- The word at an address below 0x010, the sixteen registers of the map R61; CMD reads 0x0000. -/
def readControl (a : Nat) (s : State) : Word :=
  match a with
  | 0x001 => statusWord s
  | 0x002 => s.err.setWidth 16
  | 0x003 => s.start
  | 0x004 => s.count
  | 0x005 => s.cfg.setWidth 16
  | 0x006 => s.crc
  | 0x007 => s.explen.setWidth 16
  | 0x008 => lengthWord s.buf.length
  | 0x009 => lengthWord (frame s).length
  | 0x00A => fcrc s
  | 0x00B => rcrc s
  | 0x00C => hdr s
  | 0x00D => bytecnt s
  | 0x00E => lengthWord (payloadLen (frame s))
  | 0x00F => s.txlen.setWidth 16
  | _ => 0x0000

/-- `Read(a)`: the value the map gives, computed from the current state (R199). -/
def readReg (a : Addr) (s : State) : Word :=
  if a.toNat < 0x010 then readControl a.toNat s else readWindow a.toNat s

end Sys2Proof.Machine
end

