-- ==== Sys2Proof/Machine/Bus.lean ====
section
/-! DEFINITION. The bus transactions: Writes, Read and the hardware reset input (44_control.md R194 to R199,
70_reset_and_hazards.md R240). -/

namespace Sys2Proof.Machine

/-- `WR START, d` (R196): in every STATE. -/
def execWrStart (d : Word) (s : State) : Host.Outcome State Fault Refusal := .next { s with start := d }

/-- `WR COUNT, d` (R197): in every STATE, no range check. -/
def execWrCount (d : Word) (s : State) : Host.Outcome State Fault Refusal := .next { s with count := d }

/-- `WR CFG, d` (R198): `R.CFG <- d[1:0]`, the other bits are ignored. -/
def execWrCfg (d : Word) (s : State) : Host.Outcome State Fault Refusal :=
  .next { s with cfg := d.extractLsb' 0 2 }

/-- `raise ILLEGAL_CMD()` for a word that is no command (R194). -/
def executeIllegal (s : State) : Host.Outcome State Fault Refusal := .next (raise .illegalCmd s)

/-- `execute(i)` for a decoded command word (R195). The decoder gives none of the bus rows (Laws/Decode.lean,
`decodeCommand_isCommand`), so their lines are never reached. -/
def executeCommand (i : Instr) (s : State) : Host.Outcome State Fault Refusal :=
  match i with
  | .nop => execNop s
  | .reset => execReset s
  | .crcInit => execCrcInit s
  | .crcFeed b => execCrcFeed b s
  | .build => execBuild s
  | .buildDi => execBuildDi s
  | .buildG2 => execBuildG2 s
  | .buildR6 => execBuildR6 s
  | .recvRaw => execRecvRaw s
  | .push b => execPush b s
  | .finish => execFinish s
  | .abortTo => execAbortTo s
  | .abortCan => execAbortCan s
  | .ack => execAck s
  | .clrErr m => execClrErr m s
  | .wrStart _ | .wrCount _ | .wrCfg _ | .wrCmd _ | .wrOther _ _ | .rd _ | .hwreset => executeIllegal s

/-- `WR CMD, w` (R195): `execute(decode(w))`, for a legal and for an illegal word. -/
def execWrCmd (w : Word) (s : State) : Host.Outcome State Fault Refusal :=
  match decodeCommand w with
  | .ok i => executeCommand i s
  | .error _ => executeIllegal s

/-- `Write(a, d)` by its address, the case split of R195. -/
def writeReg (a : Addr) (d : Word) (s : State) : Host.Outcome State Fault Refusal :=
  if a = 0x000 then execWrCmd d s
  else if a = 0x003 then execWrStart d s
  else if a = 0x004 then execWrCount d s
  else if a = 0x005 then execWrCfg d s
  else .next (raise .badAddr s)

/-- `WR other` (R195): BAD_ADDR, the datum is discarded. On an address that a Write acts on, a term that is
not well-formed, it is that Write. -/
def execWrOther (a : Addr) (d : Word) (s : State) : Host.Outcome State Fault Refusal := writeReg a d s

/-- `RD a` (R199): the host gets the register's value; the block's state does not change. -/
def execRd (a : Addr) (s : State) : Host.Outcome State Fault Refusal :=
  .next { s with readData := some (readReg a s) }

/-- `HWRESET` (R240). -/
def execHwreset (s : State) : Host.Outcome State Fault Refusal := .next (resetBlock s)

end Sys2Proof.Machine
end

