-- ==== Sys2Proof/Machine/Dispatch.lean ====
section
/-! DEFINITION. The one match from an instruction to its meaning. -/

namespace Sys2Proof.Machine

def exec (i : Instr) (s : State) : Host.Outcome State Fault Refusal :=
  match i with
  | .nop => Sys2Proof.Machine.execNop s
  | .reset => Sys2Proof.Machine.execReset s
  | .crcInit => Sys2Proof.Machine.execCrcInit s
  | .crcFeed b => Sys2Proof.Machine.execCrcFeed b s
  | .build => Sys2Proof.Machine.execBuild s
  | .buildDi => Sys2Proof.Machine.execBuildDi s
  | .buildG2 => Sys2Proof.Machine.execBuildG2 s
  | .buildR6 => Sys2Proof.Machine.execBuildR6 s
  | .recvRaw => Sys2Proof.Machine.execRecvRaw s
  | .push b => Sys2Proof.Machine.execPush b s
  | .finish => Sys2Proof.Machine.execFinish s
  | .abortTo => Sys2Proof.Machine.execAbortTo s
  | .abortCan => Sys2Proof.Machine.execAbortCan s
  | .ack => Sys2Proof.Machine.execAck s
  | .clrErr m => Sys2Proof.Machine.execClrErr m s
  | .wrStart d => Sys2Proof.Machine.execWrStart d s
  | .wrCount d => Sys2Proof.Machine.execWrCount d s
  | .wrCfg d => Sys2Proof.Machine.execWrCfg d s
  | .wrCmd w => Sys2Proof.Machine.execWrCmd w s
  | .wrOther a d => Sys2Proof.Machine.execWrOther a d s
  | .rd a => Sys2Proof.Machine.execRd a s
  | .hwreset => Sys2Proof.Machine.execHwreset s

end Sys2Proof.Machine
end

