-- ==== Sys2Proof/Machine/Step.lean ====
section
/-! DEFINITION. One step of the machine: the block takes the host's oldest pending transaction and runs it
whole (00_scope.md R5, R6; 20_memory.md R68). -/

namespace Sys2Proof.Machine

/-- With nothing pending the block idles: it "never takes a step on its own" (R5) and "idles in IDLE or DONE
until the next transaction" (R246; log entry 1). -/
def step (s : State) : Host.Outcome State Fault Refusal :=
  match takeTxn s with
  | none => .next s
  | some (t, s') => exec (decodeTxn t) s'

/-- `s` with the Write to CMD of a command word issued as the next transaction (R80). The word is numbered as
opcode_table.json numbers it, the bits above `nbits` are 0, and a command has 16 bits (log entry 8). -/
def State.withFetchWord (s : State) (nbits w : Nat) : State :=
  issueNext (.write 0x000 (BitVec.ofNat 16 (w % 2 ^ nbits))) s

end Sys2Proof.Machine
end

