-- ==== Sys2Proof/Safety.lean ====
section
/-! DEFINITION. The terms the statements use: a run of a list of instructions, the answer of an outcome, the
invariants of 10_state.md R47, and the shape of the four build commands. -/

namespace Sys2Proof.Machine

/-- The next state of an outcome, if it is one. -/
def answer : Host.Outcome State Fault Refusal → Option State
  | .next s => some s
  | .fault _ => none
  | .refused _ => none

/-- Instructions executed one after another, stopping at the first that does not answer a next state. -/
def execAll : List Instr → State → Host.Outcome State Fault Refusal
  | [], s => .next s
  | i :: is, s =>
    match exec i s with
    | .next t => execAll is t
    | .fault r => .fault r
    | .refused r => .refused r

/-- One chunk of a response: its bytes pushed in order (`PUSHS`, R90). -/
def pushAll (bs : List Byte) (s : State) : Host.Outcome State Fault Refusal := execAll (bs.map .push) s

/-- A BUILD family command (R120). -/
def IsBuild (i : Instr) : Prop := i = .build ∨ i = .buildDi ∨ i = .buildG2 ∨ i = .buildR6

/-- RESET or the hardware reset input, the two reset sources (R240). -/
def IsReset (i : Instr) : Prop := i = .reset ∨ i = .hwreset

/-- The properties of every reachable state, R47 (a) to (f), and what keeps them. R47 (g) holds by the types of
`state`, `kind` and `result`. -/
structure Inv (s : State) : Prop where
  /-- (a) -/
  bufCapacity : s.buf.length ≤ 256
  /-- (b) -/
  framedRoom : s.state = .armed → s.kind ≠ .raw →
    s.buf.length < s.explen.toNat ∧ s.explen.toNat ≤ 256
  /-- (c) -/
  markerFirst : s.marker = true → s.kind ≠ .raw ∧ s.buf.head? = some 0x32
  /-- (d) -/
  armedNoResult : s.state = .armed → s.result = .none
  /-- (e) -/
  failureCleared : s.state ≠ .armed → s.result ≠ .none → s.result ≠ .ok →
    s.buf = [] ∧ s.marker = false
  /-- (f) -/
  requestValid : s.txlen = 8 →
    s.txbuf.b0 = 0x01 ∧ s.txbuf.b1 = 0x03 ∧
      wordOfBytes s.txbuf.b6 s.txbuf.b7 =
        crc16 [s.txbuf.b0, s.txbuf.b1, s.txbuf.b2, s.txbuf.b3, s.txbuf.b4, s.txbuf.b5]
  /-- TXLEN is 0 or 8 (R20, R44). -/
  txlenValue : s.txlen = 0 ∨ s.txlen = 8
  /-- Before a marker the expected length leaves room for one (R124). -/
  markerRoom : s.state = .armed → s.kind ≠ .raw → s.marker = false → s.explen.toNat ≤ 255
  /-- A RAW receive has no expected length (R35). -/
  rawNoLength : s.kind = .raw → s.explen = 0
  /-- DONE holds an outcome (R23). -/
  doneHasResult : s.state = .done → s.result ≠ .none

end Sys2Proof.Machine
end

