-- ==== Sys2Proof/Certificates/Slice0/Obligations.lean ====
section
/-! DEFINITION. The statements for the provers, in the order of the spec's files. No statement rests on the
values the model chose (log entries 1, 2 and 4) unless its docstring says so. A rule named in a docstring says
where the statement comes from; the rules a statement says whole are the `cites` of OBLIGATIONS.json. -/

open Sys2Proof Sys2Proof.Machine

/-! ### Encoding (30_encoding.md) -/

/-- R83: words written out from the opcode map, bit by bit. -/
def Obligations.OpcodeMapWordsDecode : Prop :=
  decodeCommand 0b0000000000000000 = .ok .nop ∧
  decodeCommand 0b0001000000000000 = .ok .reset ∧
  decodeCommand 0b0010000000000000 = .ok .crcInit ∧
  decodeCommand 0b0011000010100101 = .ok (.crcFeed 0xA5) ∧
  decodeCommand 0b0100000000000000 = .ok .build ∧
  decodeCommand 0b0100000100000000 = .ok .buildDi ∧
  decodeCommand 0b0100001000000000 = .ok .buildG2 ∧
  decodeCommand 0b0100001100000000 = .ok .buildR6 ∧
  decodeCommand 0b0101000000000000 = .ok .recvRaw ∧
  decodeCommand 0b0110000000110010 = .ok (.push 0x32) ∧
  decodeCommand 0b0111000000000000 = .ok .finish ∧
  decodeCommand 0b1000000000000000 = .ok .abortTo ∧
  decodeCommand 0b1000000100000000 = .ok .abortCan ∧
  decodeCommand 0b1001000000000000 = .ok .ack ∧
  decodeCommand 0b1010000000001111 = .ok (.clrErr 0x0F)

/-- R87, the decoder's pseudocode, with the fields taken by division and remainder from the word's number. -/
def Obligations.DecoderFollowsItsPseudocode : Prop :=
  ∀ w : Word,
    let op := w.toNat / 4096
    let sub := w.toNat / 256 % 16
    let imm := w.toNat % 256
    let low := w.toNat % 4096
    (op = 0x0 → decodeCommand w = if low = 0 then .ok .nop else .error .operandBits) ∧
    (op = 0x1 → decodeCommand w = if low = 0 then .ok .reset else .error .operandBits) ∧
    (op = 0x2 → decodeCommand w = if low = 0 then .ok .crcInit else .error .operandBits) ∧
    (op = 0x3 → decodeCommand w =
      if sub = 0 then .ok (.crcFeed (BitVec.ofNat 8 imm)) else .error .subNotZero) ∧
    (op = 0x4 → decodeCommand w =
      if imm = 0 ∧ sub = 0 then .ok .build
      else if imm = 0 ∧ sub = 1 then .ok .buildDi
      else if imm = 0 ∧ sub = 2 then .ok .buildG2
      else if imm = 0 ∧ sub = 3 then .ok .buildR6
      else .error .buildField) ∧
    (op = 0x5 → decodeCommand w = if low = 0 then .ok .recvRaw else .error .operandBits) ∧
    (op = 0x6 → decodeCommand w =
      if sub = 0 then .ok (.push (BitVec.ofNat 8 imm)) else .error .subNotZero) ∧
    (op = 0x7 → decodeCommand w = if low = 0 then .ok .finish else .error .operandBits) ∧
    (op = 0x8 → decodeCommand w =
      if imm = 0 ∧ sub = 0 then .ok .abortTo
      else if imm = 0 ∧ sub = 1 then .ok .abortCan
      else .error .abortField) ∧
    (op = 0x9 → decodeCommand w = if low = 0 then .ok .ack else .error .operandBits) ∧
    (op = 0xA → decodeCommand w =
      if sub = 0 then .ok (.clrErr (BitVec.ofNat 8 imm)) else .error .subNotZero) ∧
    (0xB ≤ op → decodeCommand w = .error .unassignedOp)

/-- R84: a word is a command exactly when a row of R83 covers it; the other words are the classes (a) to (e),
and writing one to CMD sets ERR bit 0 and changes nothing else. -/
def Obligations.DecodingIsStrict : Prop :=
  ∀ w : Word,
    let op := w.toNat / 4096
    let sub := w.toNat / 256 % 16
    let imm := w.toNat % 256
    ((∃ i, decodeCommand w = .ok i) ↔ isCommandWord w = true) ∧
    (isCommandWord w = false ↔
      0xB ≤ op ∨
      ((op = 0x0 ∨ op = 0x1 ∨ op = 0x2 ∨ op = 0x5 ∨ op = 0x7 ∨ op = 0x9) ∧ w.toNat % 4096 ≠ 0) ∨
      ((op = 0x3 ∨ op = 0x6 ∨ op = 0xA) ∧ sub ≠ 0) ∨
      (op = 0x4 ∧ (4 ≤ sub ∨ imm ≠ 0)) ∨
      (op = 0x8 ∧ (2 ≤ sub ∨ imm ≠ 0))) ∧
    (isCommandWord w = false →
      ∀ s : State, exec (.wrCmd w) s = .next { s with err := s.err ||| 0b0001 })

/-- No word is covered by two rows of the opcode map (R83). -/
def Obligations.OpcodeRowsNeverOverlap : Prop :=
  ∀ (w : Word) (r q : CommandRow), r ∈ commandRows → q ∈ commandRows →
    r.covers w = true → q.covers w = true → r = q

/-- Decoding the encoding of a well-formed instruction gives it back, at every operand value. -/
def Obligations.DecodeOfEncodeIsIdentity : Prop :=
  ∀ i : Instr, i.wellFormed = true → decodeTxn (encode i) = i

/-- Every transaction of the host stands for one well-formed instruction, whose encoding is that transaction:
no bit of a command word, address or datum is dropped. -/
def Obligations.EncodeOfDecodeIsIdentity : Prop :=
  ∀ x : HostTxn, (decodeTxn x).wellFormed = true ∧ encode (decodeTxn x) = x

/-- R90: the pseudo-instructions are exactly their expansions. -/
def Obligations.PseudoInstructionsExpand : Prop :=
  (∀ bs : List Byte, (AsmLine.pushs bs).expand = bs.flatMap fun b => (AsmLine.mnemonic (.push b)).expand) ∧
  (∀ bs : List Byte,
    (AsmLine.crcFeeds bs).expand = bs.flatMap fun b => (AsmLine.mnemonic (.crcFeed b)).expand) ∧
  (∀ s n : Word, (AsmLine.req s n).expand =
    (AsmLine.wr RegName.start.addr s).expand ++ (AsmLine.wr RegName.count.addr n).expand ++
      (AsmLine.mnemonic .build).expand) ∧
  AsmLine.clrErrAll.expand = (AsmLine.mnemonic (.clrErr 0x0F)).expand

/-! ### Steps (00_scope.md R5 to R7, 20_memory.md R68) -/

/-- The step takes the oldest pending transaction and runs its instruction on the state without it; with
nothing pending the block idles (the queue is the model's own, log entry 1). -/
def Obligations.StepRunsTheDecodedInstruction : Prop :=
  (∀ (s : State) (i : Instr) (rest : List HostTxn), i.wellFormed = true →
    s.pending = encode i :: rest → step s = exec i { s with pending := rest }) ∧
  (∀ (s : State) (x : HostTxn) (rest : List HostTxn),
    s.pending = x :: rest → step s = exec (decodeTxn x) { s with pending := rest }) ∧
  (∀ s : State, s.pending = [] → step s = .next s)

/-- A command word placed as the next transaction runs as the instruction the decoder reads from it. -/
def Obligations.FetchedWordRunsItsCommand : Prop :=
  ∀ (s : State) (nbits w : Nat) (i : Instr), decodeTableWord nbits w = some i →
    step (s.withFetchWord nbits w) = exec i s

/-- An instruction and the one its transaction decodes to have the same meaning, and a Write of a legal word to
CMD executes that command (R195). On the terms that are not well-formed (`wrCmd` of a legal word, `wrOther` of a
writable address) the first clause is the model's choice, log entry 7. -/
def Obligations.MeaningFollowsTheTransaction : Prop :=
  (∀ (i : Instr) (s : State), exec i.canonical s = exec i s) ∧
  (∀ (w : Word) (i : Instr) (s : State), decodeCommand w = .ok i →
    exec (.wrCmd w) s = exec i s)

/-- The block halts never (R246) and has no trap (R210): every instruction answers a next state, in every
state. -/
def Obligations.EveryInstructionAnswersNext : Prop :=
  ∀ (i : Instr) (s : State), ∃ t, exec i s = .next t

/-- No instruction changes the parameters or the pending transactions, and only a Read changes the datum last
returned. These three fields are the model's own (log entries 1, 2, 4). -/
def Obligations.ModelFieldsAreLeftAlone : Prop :=
  ∀ (i : Instr) (s t : State), exec i s = .next t →
    t.params = s.params ∧ t.pending = s.pending ∧
    ((∀ a, i ≠ .rd a) → t.readData = s.readData)

/-! ### CRC codec (40_crc.md) -/

/-- The table-driven form equals the bit-serial form on every byte sequence. R102 calls this informative and
"from general knowledge, not in source". -/
def Obligations.TableDrivenCrcEqualsBitSerial : Prop :=
  ∀ bs : List Byte, crc16Table bs = crc16 bs

/-- R104: what `crc_ok` says; it holds of every sequence with its CRC appended low byte first, and of none that
differs from such a frame in one bit. -/
def Obligations.CrcOkAcceptsExactlyAndDetectsOneBit : Prop :=
  (∀ f : List Byte, 2 ≤ f.length →
    (crcOk f = true ↔
      crc16 (f.take (f.length - 2)) =
        (f.getD (f.length - 2) 0).setWidth 16 ||| (f.getD (f.length - 1) 0).setWidth 16 <<< 8)) ∧
  (∀ bs : List Byte, crcOk (bs ++ [(crc16 bs).setWidth 8, (crc16 bs >>> 8).setWidth 8]) = true) ∧
  (∀ (bs : List Byte) (j k : Nat),
    let f := bs ++ [(crc16 bs).setWidth 8, (crc16 bs >>> 8).setWidth 8]
    j < f.length → k < 8 → crcOk (f.set j (f.getD j 0 ^^^ (1#8 <<< k))) = false)

/-- The CRC of a sequence with its CRC appended is 0. R107 calls this informative and "from general knowledge,
not in source". -/
def Obligations.CrcResidueIsZero : Prop :=
  ∀ bs : List Byte, crc16 (bs ++ [(crc16 bs).setWidth 8, (crc16 bs >>> 8).setWidth 8]) = 0x0000

/-- R105: CRC.INIT, its word, its effect in every state, and its illegal words. -/
def Obligations.CrcInitSetsOnlyCrc : Prop :=
  decodeCommand 0x2000 = .ok .crcInit ∧
  (∀ s : State, exec .crcInit s = .next { s with crc := 0xFFFF }) ∧
  (∀ (x : BitVec 12) (s : State), x ≠ 0 →
    exec (.wrCmd (0x2#4 ++ x)) s = .next { s with err := s.err ||| 0b0001 })

/-- R100 and R106: CRC.FEED folds its byte in by eight turns of the shift, in every state, and changes only
CRC. -/
def Obligations.CrcFeedFoldsOneByte : Prop :=
  ∀ (b : Byte) (s : State), ∃ c : Nat → Word,
    c 0 = s.crc ^^^ b.setWidth 16 ∧
    (∀ n < 8, c (n + 1) = if (c n).getLsbD 0 then (c n >>> 1) ^^^ 0xA001 else c n >>> 1) ∧
    decodeCommand (0x30#8 ++ b) = .ok (.crcFeed b) ∧
    exec (.crcFeed b) s = .next { s with crc := c 8 } ∧
    ∀ sub : BitVec 4, sub ≠ 0 →
      exec (.wrCmd (0x3#4 ++ sub ++ b)) s = .next { s with err := s.err ||| 0b0001 }

/-- CRC.INIT and then CRC.FEED of a sequence leave its CRC in the register, whatever the block is doing, and
change nothing else (R106). -/
def Obligations.CrcEngineComputesTheCrc : Prop :=
  ∀ (bs : List Byte) (s : State),
    execAll (.crcInit :: bs.map .crcFeed) s = .next { s with crc := crc16 bs }

/-- R108: CRC.INIT and CRC.FEED change only CRC, and apart from the resets and Read no other instruction writes
CRC or depends on it. -/
def Obligations.CrcEngineIsIndependent : Prop :=
  (∀ s : State, ∃ c, exec .crcInit s = .next { s with crc := c }) ∧
  (∀ (b : Byte) (s : State), ∃ c, exec (.crcFeed b) s = .next { s with crc := c }) ∧
  (∀ (i : Instr) (s t : State) (c : Word),
    i.canonical ≠ .crcInit → (∀ b, i.canonical ≠ .crcFeed b) → ¬ IsReset i.canonical →
    (∀ a, i ≠ .rd a) → exec i s = .next t →
      t.crc = s.crc ∧ exec i { s with crc := c } = .next { t with crc := c })

/-! ### Request builder (41_request.md) -/

/-- R122 and R125, BUILD: BUSY while ARMED; a count outside 2..125 ends at once with INVALID_REQUEST; a
legal count builds the request and arms the receiver, whose verdict has no schema check. Each clause gives the
whole next state. -/
def Obligations.BuildCustomRequest : Prop :=
  decodeCommand 0x4000 = .ok .build ∧
  (∀ (p : Params) (f : List Byte), verdict p f .custom ≠ .insufficientData) ∧
  ∀ s : State,
    (s.state = .armed → exec .build s = .next { s with err := s.err ||| 0b0010 }) ∧
    (s.state ≠ .armed → (s.count.toNat < 2 ∨ 125 < s.count.toNat) →
      exec .build s = .next { s with
        kind := .custom, marker := false, buf := [], txlen := 0, explen := 0,
        result := .invalidRequest, state := .done }) ∧
    (s.state ≠ .armed → 2 ≤ s.count.toNat → s.count.toNat ≤ 125 →
      let c := crc16 [0x01, 0x03, (s.start >>> 8).setWidth 8, s.start.setWidth 8,
        (s.count >>> 8).setWidth 8, s.count.setWidth 8]
      exec .build s = .next { s with
        kind := .custom, marker := false, buf := [],
        txbuf := ⟨0x01, 0x03, (s.start >>> 8).setWidth 8, s.start.setWidth 8,
          (s.count >>> 8).setWidth 8, s.count.setWidth 8, c.setWidth 8, (c >>> 8).setWidth 8⟩,
        txlen := 8, explen := BitVec.ofNat 9 (5 + 2 * s.count.toNat), result := .none,
        state := .armed })

/-- R126 and its two neighbours: the preset requests, with the bytes and expected lengths the spec prints. -/
def Obligations.PresetRequestsArm : Prop :=
  decodeCommand 0x4100 = .ok .buildDi ∧ decodeCommand 0x4200 = .ok .buildG2 ∧
  decodeCommand 0x4300 = .ok .buildR6 ∧
  ∀ s : State,
    (s.state ≠ .armed →
      exec .buildDi s = .next { s with
        kind := .devinfo, marker := false, buf := [],
        txbuf := ⟨0x01, 0x03, 0x8F, 0x00, 0x00, 0x0D, 0xAE, 0xDB⟩, txlen := 8, explen := 31,
        result := .none, state := .armed } ∧
      exec .buildG2 s = .next { s with
        kind := .gen2, marker := false, buf := [],
        txbuf := ⟨0x01, 0x03, 0x01, 0x00, 0x00, 0x3B, 0x05, 0xE5⟩, txlen := 8, explen := 123,
        result := .none, state := .armed } ∧
      exec .buildR6 s = .next { s with
        kind := .r6, marker := false, buf := [],
        txbuf := ⟨0x01, 0x03, 0x60, 0x04, 0x00, 0x5F, 0x5A, 0x33⟩, txlen := 8, explen := 195,
        result := .none, state := .armed }) ∧
    (s.state = .armed →
      exec .buildDi s = .next { s with err := s.err ||| 0b0010 } ∧
      exec .buildG2 s = .next { s with err := s.err ||| 0b0010 } ∧
      exec .buildR6 s = .next { s with err := s.err ||| 0b0010 })

/-- TXBUF and TXLEN keep their values until a BUILD family command that is not refused, RECV.RAW (TXLEN only) or
a reset (R130), and a BUILD with an illegal count keeps TXBUF (R44, R122). -/
def Obligations.RequestBytesAreKept : Prop :=
  ∀ (i : Instr) (s t : State), exec i s = .next t →
    (t.txbuf ≠ s.txbuf →
      IsReset i.canonical ∨ (IsBuild i.canonical ∧ s.state ≠ .armed ∧ t.state = .armed)) ∧
    (t.txlen ≠ s.txlen →
      IsReset i.canonical ∨ (i.canonical.isArm = true ∧ s.state ≠ .armed))

/-! ### Receive path (42_receive.md) -/

/-- R141: RECV.RAW, refused while ARMED, otherwise arming with no request and no expected length. -/
def Obligations.RecvRawArms : Prop :=
  decodeCommand 0x5000 = .ok .recvRaw ∧
  ∀ s : State,
    (s.state = .armed → exec .recvRaw s = .next { s with err := s.err ||| 0b0010 }) ∧
    (s.state ≠ .armed →
      exec .recvRaw s = .next { s with
        kind := .raw, marker := false, buf := [], txlen := 0, explen := 0, result := .none,
        state := .armed })

/-- R142 where PUSH does not end the receive: the byte is appended, and a first byte 0x32 of a receive armed by a
BUILD family command sets MARKER and raises EXPLEN by one (R143). -/
def Obligations.PushStoresOneByte : Prop :=
  ∀ (b : Byte) (s : State), s.state = .armed →
    (s.kind = .raw → s.buf.length ≠ 256 →
      exec (.push b) s = .next { s with buf := s.buf ++ [b] }) ∧
    (s.kind ≠ .raw → s.buf = [] → b = 0x32 → (s.explen + 1).toNat ≠ 1 →
      exec (.push b) s = .next { s with marker := true, explen := s.explen + 1, buf := [0x32] }) ∧
    (s.kind ≠ .raw → (s.buf ≠ [] ∨ b ≠ 0x32) → s.buf.length + 1 ≠ s.explen.toNat →
      exec (.push b) s = .next { s with buf := s.buf ++ [b] })

/-- Where PUSH ends the receive: the byte that makes `|buf| = EXPLEN` records the verdict of the frame view
(R144, R170), and the byte past the capacity of a RAW receive records OVERFLOW (R146). The second clause is a
state no run reaches, an EXPLEN of 0 in a framed receive. -/
def Obligations.PushEndsTheReceive : Prop :=
  ∀ (b : Byte) (s : State), s.state = .armed →
    (s.kind = .raw → s.buf.length = 256 →
      exec (.push b) s = .next { s with
        result := .overflow, state := .done, buf := [], marker := false }) ∧
    (s.kind ≠ .raw → s.buf = [] → b = 0x32 → (s.explen + 1).toNat = 1 →
      exec (.push b) s = .next { s with
        explen := s.explen + 1, result := .malformedFrame, state := .done, buf := [],
        marker := false }) ∧
    (s.kind ≠ .raw → (s.buf ≠ [] ∨ b ≠ 0x32) → s.buf.length + 1 = s.explen.toNat →
      let f := if s.marker then (s.buf ++ [b]).drop 1 else s.buf ++ [b]
      (verdict s.params f s.kind = .ok →
        exec (.push b) s = .next { s with buf := s.buf ++ [b], result := .ok, state := .done }) ∧
      (verdict s.params f s.kind ≠ .ok →
        exec (.push b) s = .next { s with
          buf := [], marker := false, result := verdict s.params f s.kind, state := .done }))

/-- R149: FINISH records the verdict of the bytes received so far, at any length. -/
def Obligations.FinishRecordsTheVerdict : Prop :=
  decodeCommand 0x7000 = .ok .finish ∧
  ∀ s : State,
    (s.state ≠ .armed → exec .finish s = .next { s with err := s.err ||| 0b0100 }) ∧
    (s.state = .armed →
      let f := if s.marker then s.buf.drop 1 else s.buf
      (verdict s.params f s.kind = .ok →
        exec .finish s = .next { s with result := .ok, state := .done }) ∧
      (verdict s.params f s.kind ≠ .ok →
        exec .finish s = .next { s with
          result := verdict s.params f s.kind, state := .done, buf := [], marker := false }))

/-- R150, R151: ABORT.TO and ABORT.CAN end an outstanding receive with their own result and no verdict, and
outside ARMED change nothing at all. -/
def Obligations.AbortEndsOnlyAReceive : Prop :=
  ∀ s : State,
    (s.state = .armed →
      exec .abortTo s = .next { s with
        result := .timedOut, state := .done, buf := [], marker := false } ∧
      exec .abortCan s = .next { s with
        result := .cancelled, state := .done, buf := [], marker := false }) ∧
    (s.state ≠ .armed → exec .abortTo s = .next s ∧ exec .abortCan s = .next s)

/-- R154: outside a receive any number of bytes, a FINISH alone, and a FINISH after any number of bytes set ERR
bit 2 and change nothing else. -/
def Obligations.StrayBytesAreDiscarded : Prop :=
  ∀ (bs : List Byte) (s : State), s.state ≠ .armed →
    (bs ≠ [] → pushAll bs s = .next { s with err := s.err ||| 0b0100 }) ∧
    exec .finish s = .next { s with err := s.err ||| 0b0100 } ∧
    execAll (bs.map .push ++ [.finish]) s = .next { s with err := s.err ||| 0b0100 }

/-- A whole response, pushed byte by byte into a receiver just armed by a BUILD family command, ends with the
verdict of that response (R142 to R144, R170, R175). -/
def Obligations.ResponseDeliveryGivesItsVerdict : Prop :=
  ∀ (s : State) (g : List Byte), s.state = .armed → s.kind ≠ .raw → s.buf = [] → s.marker = false →
    g ≠ [] → g.head? ≠ some 0x32 → g.length = s.explen.toNat →
    (verdict s.params g s.kind = .ok →
      pushAll g s = .next { s with buf := g, result := .ok, state := .done }) ∧
    (verdict s.params g s.kind ≠ .ok →
      pushAll g s = .next { s with result := verdict s.params g s.kind, state := .done })

/-- With and without a leading marker byte the same response gives the same STATE, RESULT, frame view, ERR
and frame registers; MARKER, RXLEN and EXPLEN are what differs. The spec marks this as its own
inference (R148, "derived"). -/
def Obligations.MarkerByteChangesNoVerdict : Prop :=
  ∀ (s : State) (g : List Byte), s.state = .armed → s.kind ≠ .raw → s.buf = [] → s.marker = false →
    0 < s.explen.toNat → s.explen.toNat ≤ 255 → g ≠ [] → g.head? ≠ some 0x32 →
    ∃ t u : State, pushAll g s = .next t ∧ pushAll (0x32 :: g) s = .next u ∧
      u.state = t.state ∧ u.result = t.result ∧ u.kind = t.kind ∧ u.err = t.err ∧
      frame u = frame t ∧ u.explen = t.explen + 1 ∧
      (∀ a : Addr, (0x009 ≤ a.toNat ∧ a.toNat ≤ 0x00E) ∨ 0x100 ≤ a.toNat → readReg a u = readReg a t) ∧
      (s.explen.toNat ≤ g.length → t.state = .done) ∧
      (t.state = .armed ∨ t.result = .ok →
        t.marker = false ∧ u.marker = true ∧ u.buf.length = t.buf.length + 1)

/-- A RAW receive of at most 256 bytes ended by FINISH gives the verdict of exactly those bytes, a first 0x32
included; the 257th byte gives OVERFLOW (R141, R146, R149). -/
def Obligations.RawReceiveJudgesItsBytes : Prop :=
  (∀ (s : State) (bs : List Byte), s.state ≠ .armed → bs.length ≤ 256 →
    ∃ t, execAll (.recvRaw :: (bs.map .push ++ [.finish])) s = .next t ∧
      t.state = .done ∧ t.kind = .raw ∧ t.result = verdict s.params bs .raw ∧
      t.buf = (if verdict s.params bs .raw = .ok then bs else []) ∧ t.marker = false ∧
      t.err = s.err ∧ t.txbuf = s.txbuf ∧ t.txlen = 0 ∧ t.explen = 0) ∧
  (∀ (s : State) (bs : List Byte), s.state ≠ .armed → bs.length = 257 →
    ∃ t, execAll (.recvRaw :: bs.map .push) s = .next t ∧
      t.state = .done ∧ t.kind = .raw ∧ t.result = .overflow ∧ t.buf = [] ∧ t.err = s.err)

/-- A deadline at about the time of the last byte. The completing PUSH first: the verdict stays. ABORT.TO
first: TIMED_OUT stays and the PUSH is NOT_ARMED. The spec marks this as its own inference (R218, "derived"). -/
def Obligations.DeadlineRaceIsSettledByOrder : Prop :=
  ∀ (b : Byte) (s t : State), s.state = .armed → exec (.push b) s = .next t → t.state = .done →
    exec .abortTo t = .next t ∧
    ∃ u, exec .abortTo s = .next u ∧ u.result = .timedOut ∧ u.state = .done ∧ u.buf = [] ∧
      exec (.push b) u = .next { u with err := u.err ||| 0b0100 }

/-! ### Response verdict (43_parse.md) -/

/-- R176: the checks in their order, the first failing one decides. -/
def Obligations.VerdictChecksInOrder : Prop :=
  ∀ (p : Params) (f : List Byte) (k : Kind),
    (f.length < 3 → verdict p f k = .malformedFrame) ∧
    (3 ≤ f.length → crcOk f = false → verdict p f k = .crcMismatch) ∧
    (3 ≤ f.length → crcOk f = true →
      (k = .gen2 ∧ f.length - 5 < p.gen2Min.val) ∨ (k = .r6 ∧ f.length - 5 < p.r6Min.val) →
      verdict p f k = .insufficientData) ∧
    (3 ≤ f.length → crcOk f = true →
      ¬((k = .gen2 ∧ f.length - 5 < p.gen2Min.val) ∨ (k = .r6 ∧ f.length - 5 < p.r6Min.val)) →
      verdict p f k = .ok)

/-- Any bytes with their CRC appended pass the structural and the CRC check whatever their header (R177); only
the schema minimum of the two realtime kinds can fail, and one flipped bit gives CRC_MISMATCH. -/
def Obligations.VerdictOfACrcCorrectFrame : Prop :=
  ∀ (p : Params) (bs : List Byte) (k : Kind), bs ≠ [] →
    let f := bs ++ [(crc16 bs).setWidth 8, (crc16 bs >>> 8).setWidth 8]
    (verdict p f k = .ok ↔
      (k = .gen2 → p.gen2Min.val + 3 ≤ bs.length ∨ p.gen2Min.val = 0) ∧
      (k = .r6 → p.r6Min.val + 3 ≤ bs.length ∨ p.r6Min.val = 0)) ∧
    (verdict p f k ≠ .ok → verdict p f k = .insufficientData) ∧
    (∀ j n : Nat, j < f.length → n < 8 →
      verdict p (f.set j (f.getD j 0 ^^^ (1#8 <<< n))) k = .crcMismatch)

/-- A CRC-correct Gen2 or R6 response of full length passes its schema check exactly when the parameter is at
most 118, respectively 190 (90_conflicts.md C1). The spec marks this as its own inference (R127, R128,
"derived"). -/
def Obligations.FullPresetResponsePassesItsMinimum : Prop :=
  ∀ (p : Params) (f : List Byte), crcOk f = true →
    (f.length = 123 → (verdict p f .gen2 = .ok ↔ p.gen2Min.val ≤ 118)) ∧
    (f.length = 195 → (verdict p f .r6 = .ok ↔ p.r6Min.val ≤ 190))

/-- Outside a receive the frame changes only by an arm command or a reset, and within one a PUSH only
appends, so a completed frame is immutable and readable across ACK. The spec marks this as its own inference
(R178, "derived"). -/
def Obligations.BufferChangesOnlyByItsWriters : Prop :=
  ∀ (i : Instr) (s t : State), exec i s = .next t → t.buf ≠ s.buf →
    (t.buf = [] ∧ (IsReset i.canonical ∨ (i.canonical.isArm = true ∧ s.state ≠ .armed))) ∨
    (s.state = .armed ∧ t.state = .armed ∧ ∃ b, i.canonical = .push b ∧ t.buf = s.buf ++ [b]) ∨
    (s.state = .armed ∧ t.state = .done ∧ t.result = .ok ∧
      ∃ b, i.canonical = .push b ∧ t.buf = s.buf ++ [b]) ∨
    (s.state = .armed ∧ t.state = .done ∧ t.result ≠ .ok ∧ t.buf = [])

/-- After a failure result the frame registers and the whole FRAME window read as for an empty frame. The spec
marks this as its own inference (R179, "derived"). -/
def Obligations.FailedFrameReadsEmpty : Prop :=
  ∀ s : State, Inv s → s.state ≠ .armed → s.result ≠ .none → s.result ≠ .ok →
    readReg 0x008 s = 0 ∧ readReg 0x009 s = 0 ∧ readReg 0x00A s = 0xFFFF ∧ readReg 0x00B s = 0 ∧
    readReg 0x00C s = 0 ∧ readReg 0x00D s = 0 ∧ readReg 0x00E s = 0 ∧
    ∀ a : Addr, 0x100 ≤ a.toNat → readReg a s = 0

/-! ### Control commands and register access (44_control.md) -/

/-- R190: NOP changes nothing; its other words are illegal. -/
def Obligations.NopChangesNothing : Prop :=
  decodeCommand 0x0000 = .ok .nop ∧ (∀ s : State, exec .nop s = .next s) ∧
  (∀ (x : BitVec 12) (s : State), x ≠ 0 →
    exec (.wrCmd (0x0#4 ++ x)) s = .next { s with err := s.err ||| 0b0001 })

/-- R240, R191: both reset sources set every piece of the block's state to its value, in every state. The
parameters, the pending transactions and the datum last returned are the model's own and stay (log entries 1,
2, 4). -/
def Obligations.BothResetSourcesReset : Prop :=
  decodeCommand 0x1000 = .ok .reset ∧ decodeTxn .reset = .hwreset ∧
  ∀ s : State,
    exec .hwreset s = exec .reset s ∧
    exec .reset s = .next
      { state := .idle, marker := false, kind := .custom, result := .none, err := 0, start := 0,
        count := 0, cfg := 0, crc := 0xFFFF, explen := 0, buf := [],
        txbuf := ⟨0, 0, 0, 0, 0, 0, 0, 0⟩, txlen := 0,
        params := s.params, pending := s.pending, readData := s.readData }

/-- The values after reset (R46), and what every address of the map then reads, which R46 marks as its own
inference ("derived"). -/
def Obligations.ResetValuesOfStateAndViews : Prop :=
  State.reset.state = .idle ∧ State.reset.marker = false ∧ State.reset.kind = .custom ∧
  State.reset.result = .none ∧ State.reset.err = 0x0 ∧ State.reset.start = 0x0000 ∧
  State.reset.count = 0x0000 ∧ State.reset.cfg = 0b00 ∧ State.reset.crc = 0xFFFF ∧
  State.reset.explen = 0 ∧ State.reset.buf = [] ∧
  txBytes State.reset.txbuf = [0x00, 0x00, 0x00, 0x00, 0x00, 0x00, 0x00, 0x00] ∧
  State.reset.txlen = 0 ∧ irq State.reset = false ∧
  ∀ a : Addr, readReg a State.reset = if a = 0x006 ∨ a = 0x00A then 0xFFFF else 0x0000

/-- R192: ACK takes DONE to IDLE, keeps everything else, and has no effect in IDLE or ARMED; after it the IRQ
line is high only from an enabled error. -/
def Obligations.AckReleasesTheResult : Prop :=
  decodeCommand 0x9000 = .ok .ack ∧
  ∀ s : State,
    (s.state = .done → exec .ack s = .next { s with state := .idle } ∧
      (irq { s with state := .idle } = true ↔ s.cfg.getLsbD 1 = true ∧ s.err ≠ 0)) ∧
    (s.state ≠ .done → exec .ack s = .next s)

/-- R193: CLR.ERR clears exactly the ERR bits its mask names, sets none, and changes nothing else; mask bits 7:4
have no effect, and a word with SUB not 0 is illegal instead. -/
def Obligations.ClrErrClearsTheMaskedBits : Prop :=
  ∀ (m : Byte) (s : State),
    decodeCommand (0xA0#8 ++ m) = .ok (.clrErr m) ∧
    (∃ e : BitVec 4, exec (.clrErr m) s = .next { s with err := e } ∧
      ∀ n < 4, e.getLsbD n = (s.err.getLsbD n && !m.getLsbD n)) ∧
    (∀ sub : BitVec 4, sub ≠ 0 →
      exec (.wrCmd (0xA#4 ++ sub ++ m)) s = .next { s with err := s.err ||| 0b0001 })

/-- R196, R197, R198: the Writes of the operand registers, in every state; the IRQ line follows the new CFG at
once. -/
def Obligations.OperandWritesStoreTheDatum : Prop :=
  ∀ (d : Word) (s : State),
    exec (.wrStart d) s = .next { s with start := d } ∧
    exec (.wrCount d) s = .next { s with count := d } ∧
    exec (.wrCfg d) s = .next { s with cfg := d.setWidth 2 } ∧
    (irq { s with cfg := d.setWidth 2 } = true ↔
      (d.getLsbD 0 = true ∧ s.state = .done) ∨ (d.getLsbD 1 = true ∧ s.err ≠ 0))

/-- R195: the case split of Write by its address, the command word included. -/
def Obligations.WriteActsByItsAddress : Prop :=
  ∀ (a : Addr) (d : Word) (s : State) (rest : List HostTxn),
    let s' := { s with pending := rest }
    s.pending = .write a d :: rest →
    (a = 0x000 → ∀ i, decodeCommand d = .ok i → step s = exec i s') ∧
    (a = 0x000 → ∀ e, decodeCommand d = .error e → step s = .next { s' with err := s.err ||| 0b0001 }) ∧
    (a = 0x003 → step s = .next { s' with start := d }) ∧
    (a = 0x004 → step s = .next { s' with count := d }) ∧
    (a = 0x005 → step s = .next { s' with cfg := d.setWidth 2 }) ∧
    (a ≠ 0x000 → a ≠ 0x003 → a ≠ 0x004 → a ≠ 0x005 →
      step s = .next { s' with err := s.err ||| 0b1000 })

/-- WR CMD and WR other complete with their own effect: the command of the word or ILLEGAL_CMD, and BAD_ADDR
(R194, R195). -/
def Obligations.BusWritesComplete : Prop :=
  (∀ (w : Word) (i : Instr) (s : State), decodeCommand w = .ok i →
    ∃ t, exec i s = .next t ∧ exec (.wrCmd w) s = .next t) ∧
  (∀ (w : Word) (e : IllegalWord) (s : State), decodeCommand w = .error e →
    exec (.wrCmd w) s = .next { s with err := s.err ||| 0b0001 }) ∧
  (∀ (a : Addr) (d : Word) (s : State), isWritable a = false →
    exec (.wrOther a d) s = .next { s with err := s.err ||| 0b1000 })

/-- R199: Read returns the value the map gives, at every address, and changes no state of the block. -/
def Obligations.ReadReturnsTheMap : Prop :=
  ∀ s : State,
    let f := if s.marker then s.buf.drop 1 else s.buf
    let returns := fun (a : Addr) (v : Word) => exec (.rd a) s = .next { s with readData := some v }
    returns 0x000 0x0000 ∧
    returns 0x001 (s.state.code.setWidth 16 ||| (if s.marker then 1#16 else 0#16) <<< 2 |||
      (if irq s then 1#16 else 0#16) <<< 3 ||| s.kind.code.setWidth 16 <<< 4 |||
      s.result.code.setWidth 16 <<< 8) ∧
    returns 0x002 (s.err.setWidth 16) ∧ returns 0x003 s.start ∧ returns 0x004 s.count ∧
    returns 0x005 (s.cfg.setWidth 16) ∧ returns 0x006 s.crc ∧ returns 0x007 (s.explen.setWidth 16) ∧
    returns 0x008 (BitVec.ofNat 16 s.buf.length) ∧ returns 0x009 (BitVec.ofNat 16 f.length) ∧
    returns 0x00A (crc16 (f.take (f.length - 2))) ∧
    (2 ≤ f.length → returns 0x00B ((f.getD (f.length - 2) 0).setWidth 16 |||
      (f.getD (f.length - 1) 0).setWidth 16 <<< 8)) ∧
    (f.length < 2 → returns 0x00B 0x0000) ∧
    returns 0x00C ((f.getD 0 0).setWidth 16 <<< 8 ||| (f.getD 1 0).setWidth 16) ∧
    returns 0x00D ((f.getD 2 0).setWidth 16) ∧ returns 0x00E (BitVec.ofNat 16 (f.length - 5)) ∧
    returns 0x00F (s.txlen.setWidth 16) ∧
    (∀ k < 8, returns (0x010 + BitVec.ofNat 9 k) (((txBytes s.txbuf).getD k 0).setWidth 16)) ∧
    (∀ a : Addr, 0x018 ≤ a.toNat → a.toNat < 0x100 → returns a 0x0000) ∧
    (∀ n < 256, returns (0x100 + BitVec.ofNat 9 n)
      (if n < f.length then (f.getD n 0).setWidth 16 else 0x0000))

/-- R63: any Reads in any order return values of the one unchanged state; the operand Writes are idempotent; two
PUSHes of one byte append two bytes; any other Write sets only ERR.BAD_ADDR. -/
def Obligations.ReadsHaveNoSideEffects : Prop :=
  (∀ (as : List Addr) (a : Addr) (s : State),
    execAll (as.map .rd ++ [.rd a]) s = .next { s with readData := some (readReg a s) }) ∧
  (∀ (d : Word) (s : State),
    execAll [.wrStart d, .wrStart d] s = exec (.wrStart d) s ∧
    execAll [.wrCount d, .wrCount d] s = exec (.wrCount d) s ∧
    execAll [.wrCfg d, .wrCfg d] s = exec (.wrCfg d) s) ∧
  (∀ (b : Byte) (s : State), s.state = .armed → s.kind = .raw → s.buf.length < 255 →
    execAll [.push b, .push b] s = .next { s with buf := s.buf ++ [b, b] }) ∧
  (∀ (a : Addr) (d : Word) (s : State), isWritable a = false →
    exec (.wrOther a d) s = .next { s with err := s.err ||| 0b1000 })

/-- START, COUNT and CFG are written only by their own Writes and by the resets (R21). -/
def Obligations.OperandRegistersHaveOneWriter : Prop :=
  ∀ (i : Instr) (s t : State), exec i s = .next t →
    (t.start ≠ s.start → IsReset i.canonical ∨ i.canonical = .wrStart t.start) ∧
    (t.count ≠ s.count → IsReset i.canonical ∨ i.canonical = .wrCount t.count) ∧
    (t.cfg ≠ s.cfg → IsReset i.canonical ∨ ∃ d : Word, i.canonical = .wrCfg d ∧ t.cfg = d.setWidth 2)

/-! ### Errors, results, interrupt (60_exceptions.md) -/

/-- R211, R212: each command error sets its ERR bit and changes nothing else, and a bit becomes set by its own
cause alone. -/
def Obligations.CommandErrorsHaveTheirCauses : Prop :=
  (∀ (i : Instr) (s : State), i.isArm = true → s.state = .armed →
    exec i s = .next { s with err := s.err ||| 0b0010 }) ∧
  (∀ (b : Byte) (s : State), s.state ≠ .armed →
    exec (.push b) s = .next { s with err := s.err ||| 0b0100 } ∧
    exec .finish s = .next { s with err := s.err ||| 0b0100 }) ∧
  (∀ (w : Word) (s : State), isCommandWord w = false →
    exec (.wrCmd w) s = .next { s with err := s.err ||| 0b0001 }) ∧
  (∀ (a : Addr) (d : Word) (s : State), isWritable a = false →
    exec (.wrOther a d) s = .next { s with err := s.err ||| 0b1000 }) ∧
  (∀ (i : Instr) (s t : State), exec i s = .next t →
    (s.err.getLsbD 0 = false → t.err.getLsbD 0 = true →
      ∃ w, i.canonical = .wrCmd w ∧ isCommandWord w = false) ∧
    (s.err.getLsbD 1 = false → t.err.getLsbD 1 = true →
      i.canonical.isArm = true ∧ s.state = .armed) ∧
    (s.err.getLsbD 2 = false → t.err.getLsbD 2 = true →
      ((∃ b, i.canonical = .push b) ∨ i.canonical = .finish) ∧ s.state ≠ .armed) ∧
    (s.err.getLsbD 3 = false → t.err.getLsbD 3 = true →
      ∃ a d, i.canonical = .wrOther a d ∧ isWritable a = false))

/-- ERR bits are sticky: a set bit is cleared only by a CLR.ERR whose mask names it, or a reset (R30). -/
def Obligations.ErrBitsAreSticky : Prop :=
  ∀ (i : Instr) (s t : State) (n : Nat), exec i s = .next t →
    s.err.getLsbD n = true → t.err.getLsbD n = false →
      IsReset i.canonical ∨ ∃ m : Byte, i.canonical = .clrErr m ∧ m.getLsbD n = true

/-- One transaction sets at most one ERR bit. The spec marks this as its own inference (R213, "derived"). -/
def Obligations.AtMostOneErrorPerTransaction : Prop :=
  ∀ (i : Instr) (s t : State) (n k : Nat), exec i s = .next t →
    s.err.getLsbD n = false → t.err.getLsbD n = true →
    s.err.getLsbD k = false → t.err.getLsbD k = true → n = k

/-- R29: the fields of STATUS as Read(0x001) returns them, reserved bits 0; a Write to it is BAD_ADDR. The values
of STATE, KIND and RESULT are the numbers of R23, R27 and R214. -/
def Obligations.StatusWordFields : Prop :=
  ∀ s : State,
    let v := readReg 0x001 s
    let state := v.extractLsb' 0 2
    let kind := v.extractLsb' 4 3
    let result := v.extractLsb' 8 4
    (s.state = .idle → state = 0) ∧ (s.state = .armed → state = 1) ∧ (s.state = .done → state = 2) ∧
    v.getLsbD 2 = s.marker ∧ v.getLsbD 3 = irq s ∧
    (s.kind = .custom → kind = 0) ∧ (s.kind = .devinfo → kind = 1) ∧ (s.kind = .gen2 → kind = 2) ∧
    (s.kind = .r6 → kind = 3) ∧ (s.kind = .raw → kind = 4) ∧ v.getLsbD 7 = false ∧
    (s.result = .none → result = 0) ∧ (s.result = .ok → result = 1) ∧
    (s.result = .invalidRequest → result = 2) ∧ (s.result = .malformedFrame → result = 3) ∧
    (s.result = .crcMismatch → result = 4) ∧ (s.result = .insufficientData → result = 5) ∧
    (s.result = .timedOut → result = 6) ∧ (s.result = .cancelled → result = 7) ∧
    (s.result = .overflow → result = 8) ∧ v.extractLsb' 12 4 = 0 ∧
    ∀ d : Word, exec (.wrOther 0x001 d) s = .next { s with err := s.err ||| 0b1000 }

/-- R220: the IRQ level, and where it is readable. -/
def Obligations.IrqIsALevelOfState : Prop :=
  ∀ s : State,
    (irq s = true ↔
      (s.cfg.getLsbD 0 = true ∧ s.state = .done) ∨ (s.cfg.getLsbD 1 = true ∧ s.err ≠ 0)) ∧
    (readReg 0x001 s).getLsbD 3 = irq s

/-- Only these instructions lower the IRQ line. The spec marks this as its own inference (R221, "derived"). -/
def Obligations.IrqIsLoweredOnlyByItsCause : Prop :=
  ∀ (i : Instr) (s t : State), exec i s = .next t → irq s = true → irq t = false →
    i.canonical = .ack ∨ i.canonical.isArm = true ∨ (∃ m, i.canonical = .clrErr m) ∨
    (∃ d, i.canonical = .wrCfg d) ∨ IsReset i.canonical

/-! ### The whole machine (10_state.md R24, R47) -/

/-- STATE changes only along the edges of the table. The spec marks the table as its own inference (R24,
"derived"). -/
def Obligations.StateChangesOnlyAlongItsEdges : Prop :=
  ∀ (i : Instr) (s t : State), exec i s = .next t → t.state ≠ s.state →
    (IsBuild i.canonical ∧ s.state ≠ .armed ∧ t.state = .armed ∧ t.result = .none) ∨
    (i.canonical = .build ∧ s.state ≠ .armed ∧ t.state = .done ∧ t.result = .invalidRequest ∧
      (s.count.toNat < 2 ∨ 125 < s.count.toNat)) ∨
    (i.canonical = .recvRaw ∧ s.state ≠ .armed ∧ t.state = .armed ∧ t.result = .none) ∨
    (s.state = .armed ∧ t.state = .done ∧ ∃ b, i.canonical = .push b ∧
      ((s.kind = .raw ∧ s.buf.length = 256 ∧ t.result = .overflow) ∨
       (s.kind ≠ .raw ∧ s.buf.length + 1 = t.explen.toNat))) ∨
    (s.state = .armed ∧ t.state = .done ∧ i.canonical = .finish) ∨
    (s.state = .armed ∧ t.state = .done ∧ i.canonical = .abortTo ∧ t.result = .timedOut) ∨
    (s.state = .armed ∧ t.state = .done ∧ i.canonical = .abortCan ∧ t.result = .cancelled) ∨
    (s.state = .done ∧ t.state = .idle ∧ i.canonical = .ack) ∨
    (t.state = .idle ∧ IsReset i.canonical)

/-- The invariant holds after reset. The spec marks its properties as its own inference (R47, "derived"). -/
def Obligations.InvariantHoldsAtReset : Prop := Inv State.reset

/-- The invariant is kept by every step, from every state that meets it. The spec marks its properties as its own
inference (R47, "derived"). -/
def Obligations.StepKeepsTheInvariant : Prop :=
  ∀ s t : State, Inv s → step s = .next t → Inv t
end

