-- ==== Sys2Proof/Laws/Crc.lean ====
section
/-! SUPPORT. The CRC function (40_crc.md): bytes of a word, the shift is injective and linear, eight shifts of a
word whose low byte is zero, and folds over an appended or changed sequence. -/

namespace Sys2Proof.Machine

/-! ### Bytes of a word -/

theorem loByte_eq_setWidth (w : Word) : loByte w = w.setWidth 8 := by
  apply BitVec.eq_of_getLsbD_eq; intro i hi; simp [loByte, hi]

theorem hiByte_eq_setWidth (w : Word) : hiByte w = (w >>> 8).setWidth 8 := by
  apply BitVec.eq_of_getLsbD_eq; intro i hi; simp [hiByte, hi]

theorem wordOfBytes_of_word (c : Word) : wordOfBytes (c.setWidth 8) ((c >>> 8).setWidth 8) = c := by
  apply BitVec.eq_of_getLsbD_eq; intro i hi
  simp [wordOfBytes, BitVec.getLsbD_ushiftRight]
  by_cases h : i < 8
  · simp [h, hi]
  · simp [h, hi, show i - 8 < 8 by omega, show 8 + (i - 8) = i by omega, show i - 8 < 16 by omega]

theorem wordOfBytes_injective {a b c d : Byte} (h : wordOfBytes a b = wordOfBytes c d) : a = c ∧ b = d := by
  have H : ∀ i, (wordOfBytes a b).getLsbD i = (wordOfBytes c d).getLsbD i := fun i => by rw [h]
  constructor
  · apply BitVec.eq_of_getLsbD_eq; intro i hi
    have := H i
    simpa [wordOfBytes, hi, show i < 16 by omega] using this
  · apply BitVec.eq_of_getLsbD_eq; intro i hi
    have := H (i + 8)
    have ha : a.getLsbD (i+8) = false := BitVec.getLsbD_of_ge _ _ (by omega)
    have hc : c.getLsbD (i+8) = false := BitVec.getLsbD_of_ge _ _ (by omega)
    simpa [wordOfBytes, ha, hc, show i + 8 < 16 by omega] using this

theorem append_eq_shift_or (a b : Byte) : (a ++ b : BitVec 16) = a.setWidth 16 <<< 8 ||| b.setWidth 16 := by
  apply BitVec.eq_of_toNat_eq
  have ha := a.isLt; have hb := b.isLt
  rw [BitVec.toNat_append, BitVec.toNat_or, BitVec.toNat_shiftLeft, BitVec.toNat_setWidth, BitVec.toNat_setWidth]
  rw [Nat.mod_eq_of_lt (by omega : b.toNat < 2^16), Nat.mod_eq_of_lt (by omega : a.toNat < 2^16), Nat.mod_eq_of_lt (by rw [Nat.shiftLeft_eq]; omega)]

/-! ### The shift and the step -/

@[simp] theorem crc16_nil : crc16 [] = 0xFFFF := rfl

theorem crcShift_injective : Function.Injective crcShift := by
  intro a b h
  have hbit : ∀ i, (crcShift a).getLsbD i = (crcShift b).getLsbD i := fun i => by rw [h]
  have key : ∀ c : Word, (crcShift c).getLsbD 15 = c.getLsbD 0 := by
    intro c; unfold crcShift; split <;> simp_all [crcPoly]
  have h0 : a.getLsbD 0 = b.getLsbD 0 := by rw [← key, ← key, h]
  have hs : a >>> 1 = b >>> 1 := by
    unfold crcShift at h
    rw [h0] at h
    split at h
    · exact (BitVec.xor_left_inj _).1 h
    · exact h
  apply BitVec.eq_of_getLsbD_eq
  intro i hi
  cases i with
  | zero => exact h0
  | succ n =>
    have := congrArg (fun w => BitVec.getLsbD w n) hs
    simpa [BitVec.getLsbD_ushiftRight, Nat.add_comm] using this

theorem repeat_injective (f : Word → Word) (hf : Function.Injective f) (n) : Function.Injective (Nat.repeat f n) := by
  induction n with
  | zero => exact Function.injective_id
  | succ n ih => exact hf.comp ih

theorem crcStep_inj_left (b) {c d} (h : crcStep c b = crcStep d b) : c = d := by
  have := repeat_injective _ crcShift_injective 8 h
  exact (BitVec.xor_left_inj _).1 this

theorem crcStep_inj_right (c) {a b} (h : crcStep c a = crcStep c b) : a = b := by
  have := repeat_injective _ crcShift_injective 8 h
  have := (BitVec.xor_right_inj _).1 this
  have := congrArg BitVec.toNat this
  apply BitVec.eq_of_toNat_eq
  have ha := a.isLt; have hb := b.isLt
  simp only [zextByte, BitVec.toNat_setWidth] at this; omega

theorem foldl_crcStep_injective (bs : List Byte) {c d} (h : bs.foldl crcStep c = bs.foldl crcStep d) : c = d := by
  induction bs generalizing c d with
  | nil => exact h
  | cons b bs ih => exact crcStep_inj_left b (ih h)

theorem foldl_crcStep_set_ne (bs : List Byte) (j : Nat) (x : Byte) (hj : j < bs.length) (hx : x ≠ bs.getD j 0) (c : Word) :
    (bs.set j x).foldl crcStep c ≠ bs.foldl crcStep c := by
  induction bs generalizing j c with
  | nil => simp at hj
  | cons b bs ih =>
    cases j with
    | zero => 
      intro h
      simp only [List.set_cons_zero, List.foldl_cons] at h
      exact hx (by simpa using crcStep_inj_right c (foldl_crcStep_injective bs h))
    | succ n =>
      simp only [List.set_cons_succ, List.foldl_cons]
      exact ih n (by simpa using hj) (by simpa using hx) _

theorem crcShift_of_even (x : Word) (h : x.getLsbD 0 = false) : crcShift x = x >>> 1 := by unfold crcShift; rw [h]; rfl

theorem repeat_crcShift_of_lowByte_zero (x : Word) (h : ∀ i < 8, x.getLsbD i = false) : ∀ n ≤ 8, Nat.repeat crcShift n x = x >>> n := by
  intro n hn
  induction n with
  | zero => simp [Nat.repeat]
  | succ n ih =>
    rw [Nat.repeat, ih (by omega), crcShift_of_even, BitVec.shiftRight_add]
    simp; exact h n (by omega)

theorem crcStep_own_lowByte (c : Word) : crcStep c (c.setWidth 8) = c >>> 8 := by
  unfold crcStep
  rw [repeat_crcShift_of_lowByte_zero _ _ 8 (le_refl _)]
  · apply BitVec.eq_of_getLsbD_eq; intro i hi
    simp [zextByte, BitVec.getLsbD_ushiftRight]
  · intro i hi
    simp [zextByte, hi, show i < 16 by omega]

theorem crc16_append (a b : List Byte) : crc16 (a ++ b) = b.foldl crcStep (crc16 a) := by
  simp [crc16, List.foldl_append]

theorem crcShift_xor (a b : Word) : crcShift (a ^^^ b) = crcShift a ^^^ crcShift b := by
  have hs : (a ^^^ b) >>> 1 = (a >>> 1) ^^^ (b >>> 1) := by
    apply BitVec.eq_of_getLsbD_eq; intro i hi; simp [BitVec.getLsbD_ushiftRight]
  unfold crcShift
  rw [BitVec.getLsbD_xor, hs]
  cases a.getLsbD 0 <;> cases b.getLsbD 0 <;> simp
  · rw [BitVec.xor_assoc]
  · rw [BitVec.xor_assoc, BitVec.xor_assoc, BitVec.xor_comm 40961#16]
  · 
    rw [BitVec.xor_assoc, BitVec.xor_comm 40961#16, BitVec.xor_assoc, BitVec.xor_self]
    simp

theorem repeat_crcShift_xor (n) (a b : Word) : Nat.repeat crcShift n (a ^^^ b) = Nat.repeat crcShift n a ^^^ Nat.repeat crcShift n b := by
  induction n with
  | zero => rfl
  | succ n ih => simp only [Nat.repeat, ih, crcShift_xor]

/-! ### Frames with two last bytes (R104) -/

theorem crcOk_append_two (bs : List Byte) (a b : Byte) : crcOk (bs ++ [a, b]) = decide (crc16 bs = wordOfBytes a b) := by
  have h1 : (bs ++ [a,b]).take ((bs ++ [a,b]).length - 2) = bs := by simp
  have h2 : (bs ++ [a,b]).getD ((bs ++ [a,b]).length - 2) 0 = a := by simp
  have h3 : (bs ++ [a,b]).getD ((bs ++ [a,b]).length - 1) 0 = b := by simp
  simp only [crcOk, h1, h2, h3]

end Sys2Proof.Machine
end

