-- ==== Sys2Proof/Laws/Decode.lean ====
section
/-! SUPPORT. The decoder's and the encoder's fields as arithmetic on the word's number, and what the decoder can
answer. -/

namespace Sys2Proof

/-! ### Fields (R81) -/

theorem toNat_commandWord (op sub : BitVec 4) (imm : Byte) :
    (commandWord op sub imm).toNat = op.toNat * 4096 + sub.toNat * 256 + imm.toNat := by
  have h1 := op.isLt; have h2 := sub.isLt; have h3 := imm.isLt
  simp only [commandWord, BitVec.toNat_append]
  rw [← Nat.shiftLeft_add_eq_or_of_lt h3, ← Nat.shiftLeft_add_eq_or_of_lt h2]
  simp only [Nat.shiftLeft_eq]; omega

theorem toNat_opField (w : Word) : (opField w).toNat = w.toNat / 4096 := by
  have := w.isLt
  simp only [opField, BitVec.extractLsb'_toNat, Nat.shiftRight_eq_div_pow]; omega

theorem toNat_subField (w : Word) : (subField w).toNat = w.toNat / 256 % 16 := by
  simp only [subField, BitVec.extractLsb'_toNat, Nat.shiftRight_eq_div_pow]

theorem toNat_immField (w : Word) : (immField w).toNat = w.toNat % 256 := by
  simp only [immField, BitVec.extractLsb'_toNat, Nat.shiftRight_eq_div_pow]; omega

theorem toNat_belowOp (w : Word) : (belowOp w).toNat = w.toNat % 4096 := by
  simp only [belowOp, BitVec.extractLsb'_toNat, Nat.shiftRight_eq_div_pow]; omega

@[simp] theorem opField_commandWord (op sub : BitVec 4) (imm : Byte) :
    opField (commandWord op sub imm) = op := by
  apply BitVec.eq_of_toNat_eq
  have h2 := sub.isLt; have h3 := imm.isLt
  rw [toNat_opField, toNat_commandWord]; omega

@[simp] theorem subField_commandWord (op sub : BitVec 4) (imm : Byte) :
    subField (commandWord op sub imm) = sub := by
  apply BitVec.eq_of_toNat_eq
  have h2 := sub.isLt; have h3 := imm.isLt
  rw [toNat_subField, toNat_commandWord]; omega

@[simp] theorem immField_commandWord (op sub : BitVec 4) (imm : Byte) :
    immField (commandWord op sub imm) = imm := by
  apply BitVec.eq_of_toNat_eq
  have h2 := sub.isLt; have h3 := imm.isLt
  rw [toNat_immField, toNat_commandWord]; omega

theorem commandWord_fields (w : Word) : commandWord (opField w) (subField w) (immField w) = w := by
  apply BitVec.eq_of_toNat_eq
  rw [toNat_commandWord, toNat_opField, toNat_subField, toNat_immField]; omega

theorem belowOp_eq_zero_iff (w : Word) : belowOp w = 0 ↔ subField w = 0 ∧ immField w = 0 := by
  simp only [BitVec.toNat_eq, toNat_belowOp, toNat_subField, toNat_immField]
  simp; omega

/-! ### Rows of the opcode map (R83) -/

theorem toNat_and_FF00 (w : Word) : (w &&& 0xFF00#16).toNat = w.toNat / 256 * 256 := by
  have h : w &&& 0xFF00#16 = (w >>> 8) <<< 8 := by
    ext i hi
    simp
    interval_cases i <;> simp
  rw [h, BitVec.toNat_shiftLeft, BitVec.toNat_ushiftRight]
  have := w.isLt
  simp only [Nat.shiftLeft_eq, Nat.shiftRight_eq_div_pow]; omega

/-- A row that fixes every bit covers one word. -/
theorem covers_fixed (p w : Word) : CommandRow.covers ⟨0xFFFF, p⟩ w = true ↔ w.toNat = p.toNat := by
  have h : w &&& (0xFFFF : Word) = w := BitVec.and_allOnes
  simp only [CommandRow.covers, h, beq_iff_eq, BitVec.toNat_eq]

/-- A row that leaves `IMM` free covers the words with its upper byte. -/
theorem covers_byte (p w : Word) :
    CommandRow.covers ⟨0xFF00, p⟩ w = true ↔ w.toNat / 256 * 256 = p.toNat := by
  simp only [CommandRow.covers, beq_iff_eq, BitVec.toNat_eq]
  exact iff_of_eq (congrArg (· = p.toNat) (toNat_and_FF00 w))

/-- The words the rows of R83 cover, as numbers. -/
theorem isCommandWord_iff (w : Word) : isCommandWord w = true ↔
    w.toNat = 0 ∨ w.toNat = 0x1000 ∨ w.toNat = 0x2000 ∨ w.toNat / 256 = 0x30 ∨ w.toNat = 0x4000 ∨
    w.toNat = 0x4100 ∨ w.toNat = 0x4200 ∨ w.toNat = 0x4300 ∨ w.toNat = 0x5000 ∨
    w.toNat / 256 = 0x60 ∨ w.toNat = 0x7000 ∨ w.toNat = 0x8000 ∨ w.toNat = 0x8100 ∨
    w.toNat = 0x9000 ∨ w.toNat / 256 = 0xA0 := by
  simp only [isCommandWord, commandRows, List.any_append, List.any_cons, List.any_nil,
    Bool.or_eq_true, covers_fixed, covers_byte]
  simp
  omega

/-! ### What the decoder answers -/

/-- The decoder gives command rows only. -/
theorem decodeCommand_isCommand (w : Word) (i : Instr) (h : decodeCommand w = .ok i) :
    i.isCommand = true := by
  unfold decodeCommand decodeFixed decodeByte decodeBuild decodeAbort at h
  repeat' split at h
  all_goals first | (cases h; rfl) | simp at h

end Sys2Proof
end

