-- ==== Sys2Proof/Laws/State.lean ====
section
/-! SUPPORT. What each shared operation does to each field of State: one lemma per field per operation. -/

namespace Sys2Proof.Machine

/-! ### raise (R212) -/

@[simp] theorem raise_state (e : CmdError) (s : State) : (raise e s).state = s.state := rfl
@[simp] theorem raise_marker (e : CmdError) (s : State) : (raise e s).marker = s.marker := rfl
@[simp] theorem raise_kind (e : CmdError) (s : State) : (raise e s).kind = s.kind := rfl
@[simp] theorem raise_result (e : CmdError) (s : State) : (raise e s).result = s.result := rfl
@[simp] theorem raise_err (e : CmdError) (s : State) : (raise e s).err = s.err ||| e.bit := rfl
@[simp] theorem raise_start (e : CmdError) (s : State) : (raise e s).start = s.start := rfl
@[simp] theorem raise_count (e : CmdError) (s : State) : (raise e s).count = s.count := rfl
@[simp] theorem raise_cfg (e : CmdError) (s : State) : (raise e s).cfg = s.cfg := rfl
@[simp] theorem raise_crc (e : CmdError) (s : State) : (raise e s).crc = s.crc := rfl
@[simp] theorem raise_explen (e : CmdError) (s : State) : (raise e s).explen = s.explen := rfl
@[simp] theorem raise_buf (e : CmdError) (s : State) : (raise e s).buf = s.buf := rfl
@[simp] theorem raise_txbuf (e : CmdError) (s : State) : (raise e s).txbuf = s.txbuf := rfl
@[simp] theorem raise_txlen (e : CmdError) (s : State) : (raise e s).txlen = s.txlen := rfl
@[simp] theorem raise_params (e : CmdError) (s : State) : (raise e s).params = s.params := rfl
@[simp] theorem raise_pending (e : CmdError) (s : State) : (raise e s).pending = s.pending := rfl
@[simp] theorem raise_readData (e : CmdError) (s : State) : (raise e s).readData = s.readData := rfl

/-! ### finishWith (R175) -/

@[simp] theorem finishWith_state (r : Result) (s : State) : (finishWith r s).state = .done := rfl
@[simp] theorem finishWith_marker (r : Result) (s : State) :
    (finishWith r s).marker = if r = .ok then s.marker else false := rfl
@[simp] theorem finishWith_kind (r : Result) (s : State) : (finishWith r s).kind = s.kind := rfl
@[simp] theorem finishWith_result (r : Result) (s : State) : (finishWith r s).result = r := rfl
@[simp] theorem finishWith_err (r : Result) (s : State) : (finishWith r s).err = s.err := rfl
@[simp] theorem finishWith_start (r : Result) (s : State) : (finishWith r s).start = s.start := rfl
@[simp] theorem finishWith_count (r : Result) (s : State) : (finishWith r s).count = s.count := rfl
@[simp] theorem finishWith_cfg (r : Result) (s : State) : (finishWith r s).cfg = s.cfg := rfl
@[simp] theorem finishWith_crc (r : Result) (s : State) : (finishWith r s).crc = s.crc := rfl
@[simp] theorem finishWith_explen (r : Result) (s : State) : (finishWith r s).explen = s.explen := rfl
@[simp] theorem finishWith_buf (r : Result) (s : State) :
    (finishWith r s).buf = if r = .ok then s.buf else [] := rfl
@[simp] theorem finishWith_txbuf (r : Result) (s : State) : (finishWith r s).txbuf = s.txbuf := rfl
@[simp] theorem finishWith_txlen (r : Result) (s : State) : (finishWith r s).txlen = s.txlen := rfl
@[simp] theorem finishWith_params (r : Result) (s : State) : (finishWith r s).params = s.params := rfl
@[simp] theorem finishWith_pending (r : Result) (s : State) : (finishWith r s).pending = s.pending := rfl
@[simp] theorem finishWith_readData (r : Result) (s : State) : (finishWith r s).readData = s.readData := rfl

/-! ### resetBlock (R240) -/

@[simp] theorem resetBlock_state (s : State) : (resetBlock s).state = State.reset.state := rfl
@[simp] theorem resetBlock_marker (s : State) : (resetBlock s).marker = State.reset.marker := rfl
@[simp] theorem resetBlock_kind (s : State) : (resetBlock s).kind = State.reset.kind := rfl
@[simp] theorem resetBlock_result (s : State) : (resetBlock s).result = State.reset.result := rfl
@[simp] theorem resetBlock_err (s : State) : (resetBlock s).err = State.reset.err := rfl
@[simp] theorem resetBlock_start (s : State) : (resetBlock s).start = State.reset.start := rfl
@[simp] theorem resetBlock_count (s : State) : (resetBlock s).count = State.reset.count := rfl
@[simp] theorem resetBlock_cfg (s : State) : (resetBlock s).cfg = State.reset.cfg := rfl
@[simp] theorem resetBlock_crc (s : State) : (resetBlock s).crc = State.reset.crc := rfl
@[simp] theorem resetBlock_explen (s : State) : (resetBlock s).explen = State.reset.explen := rfl
@[simp] theorem resetBlock_buf (s : State) : (resetBlock s).buf = State.reset.buf := rfl
@[simp] theorem resetBlock_txbuf (s : State) : (resetBlock s).txbuf = State.reset.txbuf := rfl
@[simp] theorem resetBlock_txlen (s : State) : (resetBlock s).txlen = State.reset.txlen := rfl
@[simp] theorem resetBlock_params (s : State) : (resetBlock s).params = s.params := rfl
@[simp] theorem resetBlock_pending (s : State) : (resetBlock s).pending = s.pending := rfl
@[simp] theorem resetBlock_readData (s : State) : (resetBlock s).readData = s.readData := rfl

/-! ### issueNext, the host's next transaction -/

@[simp] theorem issueNext_state (t : HostTxn) (s : State) : (issueNext t s).state = s.state := rfl
@[simp] theorem issueNext_marker (t : HostTxn) (s : State) : (issueNext t s).marker = s.marker := rfl
@[simp] theorem issueNext_kind (t : HostTxn) (s : State) : (issueNext t s).kind = s.kind := rfl
@[simp] theorem issueNext_result (t : HostTxn) (s : State) : (issueNext t s).result = s.result := rfl
@[simp] theorem issueNext_err (t : HostTxn) (s : State) : (issueNext t s).err = s.err := rfl
@[simp] theorem issueNext_start (t : HostTxn) (s : State) : (issueNext t s).start = s.start := rfl
@[simp] theorem issueNext_count (t : HostTxn) (s : State) : (issueNext t s).count = s.count := rfl
@[simp] theorem issueNext_cfg (t : HostTxn) (s : State) : (issueNext t s).cfg = s.cfg := rfl
@[simp] theorem issueNext_crc (t : HostTxn) (s : State) : (issueNext t s).crc = s.crc := rfl
@[simp] theorem issueNext_explen (t : HostTxn) (s : State) : (issueNext t s).explen = s.explen := rfl
@[simp] theorem issueNext_buf (t : HostTxn) (s : State) : (issueNext t s).buf = s.buf := rfl
@[simp] theorem issueNext_txbuf (t : HostTxn) (s : State) : (issueNext t s).txbuf = s.txbuf := rfl
@[simp] theorem issueNext_txlen (t : HostTxn) (s : State) : (issueNext t s).txlen = s.txlen := rfl
@[simp] theorem issueNext_params (t : HostTxn) (s : State) : (issueNext t s).params = s.params := rfl
@[simp] theorem issueNext_pending (t : HostTxn) (s : State) : (issueNext t s).pending = t :: s.pending := rfl
@[simp] theorem issueNext_readData (t : HostTxn) (s : State) : (issueNext t s).readData = s.readData := rfl

/-! ### buildRequest (R120): what no case of it changes -/

@[simp] theorem buildRequest_start (k : Kind) (r : Request) (s : State) :
    (buildRequest k r s).start = s.start := by
  unfold buildRequest; repeat' split
  all_goals rfl
@[simp] theorem buildRequest_count (k : Kind) (r : Request) (s : State) :
    (buildRequest k r s).count = s.count := by
  unfold buildRequest; repeat' split
  all_goals rfl
@[simp] theorem buildRequest_cfg (k : Kind) (r : Request) (s : State) :
    (buildRequest k r s).cfg = s.cfg := by
  unfold buildRequest; repeat' split
  all_goals rfl
@[simp] theorem buildRequest_crc (k : Kind) (r : Request) (s : State) :
    (buildRequest k r s).crc = s.crc := by
  unfold buildRequest; repeat' split
  all_goals rfl
@[simp] theorem buildRequest_params (k : Kind) (r : Request) (s : State) :
    (buildRequest k r s).params = s.params := by
  unfold buildRequest; repeat' split
  all_goals rfl
@[simp] theorem buildRequest_pending (k : Kind) (r : Request) (s : State) :
    (buildRequest k r s).pending = s.pending := by
  unfold buildRequest; repeat' split
  all_goals rfl
@[simp] theorem buildRequest_readData (k : Kind) (r : Request) (s : State) :
    (buildRequest k r s).readData = s.readData := by
  unfold buildRequest; repeat' split
  all_goals rfl

/-! ### abortWith (R150): what no case of it changes -/

@[simp] theorem abortWith_kind (r : Result) (s : State) :
    (abortWith r s).kind = s.kind := by
  unfold abortWith; split <;> rfl
@[simp] theorem abortWith_err (r : Result) (s : State) :
    (abortWith r s).err = s.err := by
  unfold abortWith; split <;> rfl
@[simp] theorem abortWith_start (r : Result) (s : State) :
    (abortWith r s).start = s.start := by
  unfold abortWith; split <;> rfl
@[simp] theorem abortWith_count (r : Result) (s : State) :
    (abortWith r s).count = s.count := by
  unfold abortWith; split <;> rfl
@[simp] theorem abortWith_cfg (r : Result) (s : State) :
    (abortWith r s).cfg = s.cfg := by
  unfold abortWith; split <;> rfl
@[simp] theorem abortWith_crc (r : Result) (s : State) :
    (abortWith r s).crc = s.crc := by
  unfold abortWith; split <;> rfl
@[simp] theorem abortWith_explen (r : Result) (s : State) :
    (abortWith r s).explen = s.explen := by
  unfold abortWith; split <;> rfl
@[simp] theorem abortWith_txbuf (r : Result) (s : State) :
    (abortWith r s).txbuf = s.txbuf := by
  unfold abortWith; split <;> rfl
@[simp] theorem abortWith_txlen (r : Result) (s : State) :
    (abortWith r s).txlen = s.txlen := by
  unfold abortWith; split <;> rfl
@[simp] theorem abortWith_params (r : Result) (s : State) :
    (abortWith r s).params = s.params := by
  unfold abortWith; split <;> rfl
@[simp] theorem abortWith_pending (r : Result) (s : State) :
    (abortWith r s).pending = s.pending := by
  unfold abortWith; split <;> rfl
@[simp] theorem abortWith_readData (r : Result) (s : State) :
    (abortWith r s).readData = s.readData := by
  unfold abortWith; split <;> rfl

/-! ### noteMarker (R143) -/

@[simp] theorem noteMarker_state (b : Byte) (s : State) :
    (noteMarker b s).state = s.state := by
  unfold noteMarker; split <;> rfl
@[simp] theorem noteMarker_kind (b : Byte) (s : State) :
    (noteMarker b s).kind = s.kind := by
  unfold noteMarker; split <;> rfl
@[simp] theorem noteMarker_result (b : Byte) (s : State) :
    (noteMarker b s).result = s.result := by
  unfold noteMarker; split <;> rfl
@[simp] theorem noteMarker_err (b : Byte) (s : State) :
    (noteMarker b s).err = s.err := by
  unfold noteMarker; split <;> rfl
@[simp] theorem noteMarker_start (b : Byte) (s : State) :
    (noteMarker b s).start = s.start := by
  unfold noteMarker; split <;> rfl
@[simp] theorem noteMarker_count (b : Byte) (s : State) :
    (noteMarker b s).count = s.count := by
  unfold noteMarker; split <;> rfl
@[simp] theorem noteMarker_cfg (b : Byte) (s : State) :
    (noteMarker b s).cfg = s.cfg := by
  unfold noteMarker; split <;> rfl
@[simp] theorem noteMarker_crc (b : Byte) (s : State) :
    (noteMarker b s).crc = s.crc := by
  unfold noteMarker; split <;> rfl
@[simp] theorem noteMarker_buf (b : Byte) (s : State) :
    (noteMarker b s).buf = s.buf := by
  unfold noteMarker; split <;> rfl
@[simp] theorem noteMarker_txbuf (b : Byte) (s : State) :
    (noteMarker b s).txbuf = s.txbuf := by
  unfold noteMarker; split <;> rfl
@[simp] theorem noteMarker_txlen (b : Byte) (s : State) :
    (noteMarker b s).txlen = s.txlen := by
  unfold noteMarker; split <;> rfl
@[simp] theorem noteMarker_params (b : Byte) (s : State) :
    (noteMarker b s).params = s.params := by
  unfold noteMarker; split <;> rfl
@[simp] theorem noteMarker_pending (b : Byte) (s : State) :
    (noteMarker b s).pending = s.pending := by
  unfold noteMarker; split <;> rfl
@[simp] theorem noteMarker_readData (b : Byte) (s : State) :
    (noteMarker b s).readData = s.readData := by
  unfold noteMarker; split <;> rfl

/-! ### appendFramed and pushRaw (R142): what no case of them changes -/

@[simp] theorem appendFramed_kind (b : Byte) (s : State) :
    (appendFramed b s).kind = s.kind := by
  simp only [appendFramed]; split <;> rfl
@[simp] theorem appendFramed_err (b : Byte) (s : State) :
    (appendFramed b s).err = s.err := by
  simp only [appendFramed]; split <;> rfl
@[simp] theorem appendFramed_start (b : Byte) (s : State) :
    (appendFramed b s).start = s.start := by
  simp only [appendFramed]; split <;> rfl
@[simp] theorem appendFramed_count (b : Byte) (s : State) :
    (appendFramed b s).count = s.count := by
  simp only [appendFramed]; split <;> rfl
@[simp] theorem appendFramed_cfg (b : Byte) (s : State) :
    (appendFramed b s).cfg = s.cfg := by
  simp only [appendFramed]; split <;> rfl
@[simp] theorem appendFramed_crc (b : Byte) (s : State) :
    (appendFramed b s).crc = s.crc := by
  simp only [appendFramed]; split <;> rfl
@[simp] theorem appendFramed_explen (b : Byte) (s : State) :
    (appendFramed b s).explen = s.explen := by
  simp only [appendFramed]; split <;> rfl
@[simp] theorem appendFramed_txbuf (b : Byte) (s : State) :
    (appendFramed b s).txbuf = s.txbuf := by
  simp only [appendFramed]; split <;> rfl
@[simp] theorem appendFramed_txlen (b : Byte) (s : State) :
    (appendFramed b s).txlen = s.txlen := by
  simp only [appendFramed]; split <;> rfl
@[simp] theorem appendFramed_params (b : Byte) (s : State) :
    (appendFramed b s).params = s.params := by
  simp only [appendFramed]; split <;> rfl
@[simp] theorem appendFramed_pending (b : Byte) (s : State) :
    (appendFramed b s).pending = s.pending := by
  simp only [appendFramed]; split <;> rfl
@[simp] theorem appendFramed_readData (b : Byte) (s : State) :
    (appendFramed b s).readData = s.readData := by
  simp only [appendFramed]; split <;> rfl
@[simp] theorem pushRaw_kind (b : Byte) (s : State) :
    (pushRaw b s).kind = s.kind := by
  unfold pushRaw; split <;> rfl
@[simp] theorem pushRaw_err (b : Byte) (s : State) :
    (pushRaw b s).err = s.err := by
  unfold pushRaw; split <;> rfl
@[simp] theorem pushRaw_start (b : Byte) (s : State) :
    (pushRaw b s).start = s.start := by
  unfold pushRaw; split <;> rfl
@[simp] theorem pushRaw_count (b : Byte) (s : State) :
    (pushRaw b s).count = s.count := by
  unfold pushRaw; split <;> rfl
@[simp] theorem pushRaw_cfg (b : Byte) (s : State) :
    (pushRaw b s).cfg = s.cfg := by
  unfold pushRaw; split <;> rfl
@[simp] theorem pushRaw_crc (b : Byte) (s : State) :
    (pushRaw b s).crc = s.crc := by
  unfold pushRaw; split <;> rfl
@[simp] theorem pushRaw_explen (b : Byte) (s : State) :
    (pushRaw b s).explen = s.explen := by
  unfold pushRaw; split <;> rfl
@[simp] theorem pushRaw_txbuf (b : Byte) (s : State) :
    (pushRaw b s).txbuf = s.txbuf := by
  unfold pushRaw; split <;> rfl
@[simp] theorem pushRaw_txlen (b : Byte) (s : State) :
    (pushRaw b s).txlen = s.txlen := by
  unfold pushRaw; split <;> rfl
@[simp] theorem pushRaw_params (b : Byte) (s : State) :
    (pushRaw b s).params = s.params := by
  unfold pushRaw; split <;> rfl
@[simp] theorem pushRaw_pending (b : Byte) (s : State) :
    (pushRaw b s).pending = s.pending := by
  unfold pushRaw; split <;> rfl
@[simp] theorem pushRaw_readData (b : Byte) (s : State) :
    (pushRaw b s).readData = s.readData := by
  unfold pushRaw; split <;> rfl

end Sys2Proof.Machine
end

