-- ==== Sys2Proof/Laws/Ops.lean ====
section
/-! SUPPORT. One lemma per shared operation and per command with several cases: every state it can answer. -/

namespace Sys2Proof.Machine

/-! ### raise, verdict, finish -/

theorem raise_raise (e : CmdError) (s : State) : raise e (raise e s) = raise e s := by
  simp [raise, BitVec.or_assoc]

/-- `finish(OK)` keeps the frame. -/
theorem finishWith_ok (s : State) : finishWith .ok s = { s with result := .ok, state := .done } := rfl

/-- `finish` with any other result clears it. -/
theorem finishWith_failure (r : Result) (s : State) (h : r ≠ .ok) :
    finishWith r s = { s with result := r, state := .done, buf := [], marker := false } := by
  simp only [finishWith, h, if_false]

theorem verdict_ne_none (p f k) : verdict p f k ≠ .none := by
  unfold verdict; repeat' split
  all_goals simp

/-! ### build (R120) -/

theorem countLegal_iff (n : Word) : countLegal n = true ↔ 2 ≤ n.toNat ∧ n.toNat ≤ 125 := by
  simp [countLegal]

theorem toNat_expectedLength (r : Request) (h : countLegal r.count = true) :
    (expectedLength r).toNat = 5 + 2 * r.count.toNat := by
  have := (countLegal_iff _).1 h
  simp [expectedLength]; omega

theorem buildRequest_cases (k : Kind) (r : Request) (s : State) : 
   (s.state = .armed ∧ buildRequest k r s = raise .busy s) ∨
   (s.state ≠ .armed ∧ countLegal r.count = true ∧ buildRequest k r s = { s with
      kind := k, marker := false, buf := [], txbuf := requestBuf r, txlen := 8,
      explen := expectedLength r, result := .none, state := .armed }) ∨
   (s.state ≠ .armed ∧ countLegal r.count = false ∧ buildRequest k r s = { s with
      kind := k, marker := false, buf := [], txlen := 0, explen := 0, result := .invalidRequest,
      state := .done }) := by
  by_cases h : s.state = .armed
  · left; exact ⟨h, if_pos h⟩
  · right
    cases hc : countLegal r.count
    · right; refine ⟨h, rfl, ?_⟩; unfold buildRequest; rw [if_neg h, if_neg (by simp [hc])]
    · left; refine ⟨h, rfl, ?_⟩; unfold buildRequest; rw [if_neg h, if_pos hc]

theorem presets_are_legal : countLegal presetDeviceInfo.count = true ∧ countLegal presetGen2.count = true ∧ countLegal presetR6.count = true := by decide

/-! ### abort (R150) -/

theorem abortWith_armed (r : Result) (s : State) (h : s.state = .armed) :
    abortWith r s = finishWith r s := if_pos h

theorem abortWith_not_armed (r : Result) (s : State) (h : s.state ≠ .armed) : abortWith r s = s :=
  if_neg h

/-! ### Receiving a byte (R142) -/

theorem noteMarker_cases (b : Byte) (s : State) : (s.buf = [] ∧ b = 0x32 ∧ noteMarker b s = { s with marker := true, explen := s.explen + 1 }) ∨ ((s.buf ≠ [] ∨ b ≠ 0x32) ∧ noteMarker b s = s) := by
  by_cases h : s.buf.length = 0 ∧ b = 0x32
  · left; refine ⟨by simpa using h.1, h.2, if_pos h⟩
  · right; refine ⟨?_, if_neg h⟩
    simp only [List.length_eq_zero_iff] at h; tauto

theorem exec_push_framed (b : Byte) (s : State) (h : s.state = .armed) (hk : s.kind ≠ .raw) : exec (.push b) s = .next (appendFramed b (noteMarker b s)) := by
  simp only [exec, execPush]; rw [if_pos h, if_neg hk]

theorem exec_push_raw (b : Byte) (s : State) (h : s.state = .armed) (hk : s.kind = .raw) : exec (.push b) s = .next (pushRaw b s) := by
  simp only [exec, execPush]; rw [if_pos h, if_pos hk]

theorem exec_push_stray (b : Byte) (s : State) (h : s.state ≠ .armed) : exec (.push b) s = .next (raise .notArmed s) := by
  simp [exec, execPush, h]

theorem exec_finish_armed (s : State) (h : s.state = .armed) : exec .finish s = .next (complete s) := by
  simp [exec, execFinish, h]

theorem exec_finish_stray (s : State) (h : s.state ≠ .armed) : exec .finish s = .next (raise .notArmed s) := by
  simp [exec, execFinish, h]

theorem exec_push_cases (b : Byte) (s : State) :
   (s.state ≠ .armed ∧ exec (.push b) s = .next (raise .notArmed s)) ∨
   (s.state = .armed ∧ s.kind = .raw ∧ s.buf.length = 256 ∧ exec (.push b) s = .next (finishWith .overflow s)) ∨
   (s.state = .armed ∧ s.kind = .raw ∧ s.buf.length ≠ 256 ∧ exec (.push b) s = .next { s with buf := s.buf ++ [b] }) ∨
   (s.state = .armed ∧ s.kind ≠ .raw ∧ ∃ u, u = noteMarker b s ∧ u.buf.length + 1 ≠ u.explen.toNat ∧ exec (.push b) s = .next { u with buf := s.buf ++ [b] }) ∨
   (s.state = .armed ∧ s.kind ≠ .raw ∧ ∃ u, u = noteMarker b s ∧ u.buf.length + 1 = u.explen.toNat ∧ exec (.push b) s = .next (complete { u with buf := s.buf ++ [b] })) := by
  by_cases h : s.state = .armed
  · by_cases hk : s.kind = .raw
    · by_cases hb : s.buf.length = 256
      · right; left; exact ⟨h, hk, hb, by rw [exec_push_raw b s h hk]; exact congrArg _ (if_pos hb)⟩
      · right; right; left; exact ⟨h, hk, hb, by rw [exec_push_raw b s h hk]; exact congrArg _ (if_neg hb)⟩
    · right; right; right
      by_cases he : (noteMarker b s).buf.length + 1 = (noteMarker b s).explen.toNat
      · right; refine ⟨h, hk, _, rfl, he, ?_⟩
        rw [exec_push_framed b s h hk]; simp only [appendFramed, List.length_append, List.length_singleton]; rw [if_pos he]; simp
      · left; refine ⟨h, hk, _, rfl, he, ?_⟩
        rw [exec_push_framed b s h hk]; simp only [appendFramed, List.length_append, List.length_singleton]; rw [if_neg he]; simp
  · exact .inl ⟨h, exec_push_stray b s h⟩

/-! ### Bus transactions -/

theorem executeCommand_eq_exec (i : Instr) (s : State) (h : i.isCommand = true) :
    executeCommand i s = exec i s := by
  cases i <;> first | rfl | simp [Instr.isCommand] at h

theorem exec_wrCmd_of_ok (w : Word) (i : Instr) (s : State) (h : decodeCommand w = .ok i) :
    exec (.wrCmd w) s = executeCommand i s := by
  simp only [exec, execWrCmd, h]

theorem exec_wrCmd_of_error (w : Word) (e : IllegalWord) (s : State) (h : decodeCommand w = .error e) :
    exec (.wrCmd w) s = .next (raise .illegalCmd s) := by
  simp only [exec, execWrCmd, h]; rfl

theorem exec_wrOther_of_not_writable (a : Addr) (d : Word) (s : State) (h : isWritable a = false) : exec (.wrOther a d) s = .next (raise .badAddr s) := by
  simp [isWritable] at h
  simp only [exec, execWrOther, writeReg]
  simp [h]

/-! ### The step and runs -/

theorem takeTxn_nil (s : State) (h : s.pending = []) : takeTxn s = none := by simp [takeTxn, h]

theorem takeTxn_cons (s : State) (t : HostTxn) (ts : List HostTxn) (h : s.pending = t :: ts) :
    takeTxn s = some (t, { s with pending := ts }) := by simp [takeTxn, h]

theorem execAll_append (is js : List Instr) : ∀ s t, execAll is s = .next t → execAll (is ++ js) s = execAll js t := by
  induction is with
  | nil => intro s t h; cases h; rfl
  | cons i is ih =>
    intro s t h
    simp only [List.cons_append, execAll] at *
    cases he : exec i s with
    | next u => rw [he] at h; exact ih u t h
    | fault r => rw [he] at h; cases h
    | refused r => rw [he] at h; cases h

theorem pushAll_append (a b : List Byte) (s t : State) (h : pushAll a s = .next t) : pushAll (a ++ b) s = pushAll b t := by
  simp only [pushAll, List.map_append]; exact execAll_append _ _ _ _ h

end Sys2Proof.Machine
end

