-- ==== Sys2Proof/Laws/PerInstr.lean ====
section
/-! SUPPORT. Family CommandWord: a well-formed instruction is a command exactly when its transaction is a Write to
CMD of a word the opcode map covers (30_encoding.md R83, R88). One lemma per constructor of Instr. -/

namespace Sys2Proof.Laws.CommandWord

def Statement (i : Instr) : Prop :=
  i.wellFormed = true →
    (i.isCommand = true ↔ ∃ w, encode i = .write 0x000 w ∧ isCommandWord w = true)

/-- A command whose word the map covers. -/
theorem of_word (i : Instr) (w : Word) (hc : i.isCommand = true) (he : encode i = .write 0x000 w)
    (hw : isCommandWord w = true) : Statement i := fun _ => iff_of_true hc ⟨w, he, hw⟩

/-- A command word with a free `IMM` whose upper byte the map covers. -/
theorem byte_covered (op : BitVec 4) (b : Byte) (h : op = 0x3 ∨ op = 0x6 ∨ op = 0xA) :
    isCommandWord (commandWord op 0x0 b) = true := by
  rw [isCommandWord_iff, toNat_commandWord]
  have := b.isLt
  rcases h with rfl | rfl | rfl <;> simp <;> omega

theorem nop : Statement .nop := of_word _ 0x0000 rfl rfl (by decide)

theorem reset : Statement .reset := of_word _ 0x1000 rfl rfl (by decide)

theorem crcInit : Statement .crcInit := of_word _ 0x2000 rfl rfl (by decide)

theorem crcFeed (b : Byte) : Statement (.crcFeed b) :=
  of_word _ _ rfl rfl (byte_covered _ b (by decide))

theorem build : Statement .build := of_word _ 0x4000 rfl rfl (by decide)

theorem buildDi : Statement .buildDi := of_word _ 0x4100 rfl rfl (by decide)

theorem buildG2 : Statement .buildG2 := of_word _ 0x4200 rfl rfl (by decide)

theorem buildR6 : Statement .buildR6 := of_word _ 0x4300 rfl rfl (by decide)

theorem recvRaw : Statement .recvRaw := of_word _ 0x5000 rfl rfl (by decide)

theorem push (b : Byte) : Statement (.push b) :=
  of_word _ _ rfl rfl (byte_covered _ b (by decide))

theorem finish : Statement .finish := of_word _ 0x7000 rfl rfl (by decide)

theorem abortTo : Statement .abortTo := of_word _ 0x8000 rfl rfl (by decide)

theorem abortCan : Statement .abortCan := of_word _ 0x8100 rfl rfl (by decide)

theorem ack : Statement .ack := of_word _ 0x9000 rfl rfl (by decide)

theorem clrErr (m : Byte) : Statement (.clrErr m) :=
  of_word _ _ rfl rfl (byte_covered _ m (by decide))

theorem wrStart (d : Word) : Statement (.wrStart d) := by
  intro _; simp [Instr.isCommand, encode]

theorem wrCount (d : Word) : Statement (.wrCount d) := by
  intro _; simp [Instr.isCommand, encode]

theorem wrCfg (d : Word) : Statement (.wrCfg d) := by
  intro _; simp [Instr.isCommand, encode]

theorem wrCmd (w : Word) : Statement (.wrCmd w) := by
  intro h; simpa [Instr.isCommand, encode, Instr.wellFormed] using h

theorem wrOther (a : Addr) (d : Word) : Statement (.wrOther a d) := by
  intro h
  simp [Instr.wellFormed, isWritable] at h
  simp [Instr.isCommand, encode, h]

theorem rd (a : Addr) : Statement (.rd a) := by
  intro _; simp [Instr.isCommand, encode]

theorem hwreset : Statement .hwreset := by
  intro _; simp [Instr.isCommand, encode]

end Sys2Proof.Laws.CommandWord
end

