-- ==== Sys2Proof/Laws/Views.lean ====
section
/-! SUPPORT. What the read side of the register map depends on. -/

namespace Sys2Proof.Machine

/-- At and above 0x010 a Read is one of the windows. -/
theorem readReg_window (a : Addr) (s : State) (h : 0x010 ≤ a.toNat) :
    readReg a s = readWindow a.toNat s :=
  if_neg (by omega)

/-- The frame registers and the FRAME window depend on the frame view alone. -/
theorem readReg_frame (a : Addr) (s t : State) (hf : frame t = frame s) (h : (0x009 ≤ a.toNat ∧ a.toNat ≤ 0x00E) ∨ 0x100 ≤ a.toNat) : readReg a t = readReg a s := by
  rcases h with h | h
  · unfold readReg; rw [if_pos (by omega), if_pos (by omega)]
    rcases (by omega : a.toNat = 9 ∨ a.toNat = 10 ∨ a.toNat = 11 ∨ a.toNat = 12 ∨ a.toNat = 13 ∨ a.toNat = 14) with h | h | h | h | h | h <;> rw [h] <;>
     simp only [readControl, fcrc, rcrc, hdr, bytecnt, hf]
  · rw [readReg_window _ _ (by omega), readReg_window _ _ (by omega)]
    simp only [readWindow, hf]
    (repeat' split) <;> first | omega | rfl

/-- No register depends on the datum last returned. -/
theorem readReg_readData (a : Addr) (s : State) (r : Option Word) : readReg a { s with readData := r } = readReg a s := by
  unfold readReg
  split
  · unfold readControl; split <;> rfl
  · rfl

end Sys2Proof.Machine
end

