-- ==== Sys2Proof/Machine/Assembler.lean ====
section
/-! DEFINITION. The text of a host program (30_encoding.md R89, R90): the transactions a line of assembly stands
for. No step of the machine reads text. -/

namespace Sys2Proof.Machine

/-! ### Words of a line -/

/-- The words of a line in lower case, "Names and mnemonics are case-insensitive", up to a `;`, which starts a
comment (R89). A comma is a word of its own. -/
def wordsFrom (cur : List Char) : List Char → List (List Char)
  | [] => if cur.isEmpty then [] else [cur]
  | c :: cs =>
    let done := if cur.isEmpty then [] else [cur]
    if c = ';' then done
    else if c = ' ' ∨ c = '\t' then done ++ wordsFrom [] cs
    else if c = ',' then done ++ [[',']] ++ wordsFrom [] cs
    else wordsFrom (cur ++ [c.toLower]) cs

/-- The words of a whole line. -/
def lineWords (line : String) : List (List Char) := wordsFrom [] line.toList

/-! ### Numbers and names -/

/-- The value of a digit, hexadecimal in lower case. -/
def digitValue (c : Char) : Option Nat :=
  if '0' ≤ c ∧ c ≤ '9' then some (c.toNat - 48)
  else if 'a' ≤ c ∧ c ≤ 'f' then some (c.toNat - 87)
  else none

/-- The value of a digit in a base. -/
def digitIn (base : Nat) (c : Char) : Option Nat :=
  match digitValue c with
  | some d => if d < base then some d else none
  | none => none

/-- A non-empty numeral in a base. -/
def numeral (base : Nat) (cs : List Char) : Option Nat :=
  if cs.isEmpty then none
  else cs.foldl (fun acc c => acc.bind fun n => (digitIn base c).map (n * base + ·)) (some 0)

/-- A hex literal of a width; one that does not fit is none. DESIGN CHOICE, safe: bare digits only, as R90 and the
programs of 95_test_vectors.md write them, with no `0x` prefix, and any number of digits (log entry 10). -/
def hexLiteral (width : Nat) (cs : List Char) : Option (BitVec width) :=
  match numeral 16 cs with
  | some n => if n < 2 ^ width then some (BitVec.ofNat width n) else none
  | none => none

/-- Hex bytes, at least one (R90). -/
def hexBytes (args : List (List Char)) : Option (List Byte) :=
  if args.isEmpty then none
  else args.foldr (fun a acc => acc.bind fun bs => (hexLiteral 8 a).map (· :: bs)) (some [])

/-- The index of `name[i]`, written in decimal (log entry 10). -/
def indexOf (name cs : List Char) : Option Nat :=
  if cs.take (name.length + 1) = name ++ ['['] ∧ cs.getLast? = some ']' then
    numeral 10 ((cs.drop (name.length + 1)).dropLast)
  else none

/-- The one-word registers of the map R61. -/
def registerNames : List (List Char × RegName) :=
  [("cmd".toList, .cmd), ("status".toList, .status), ("err".toList, .err), ("start".toList, .start),
   ("count".toList, .count), ("cfg".toList, .cfg), ("crc".toList, .crc), ("explen".toList, .explen)] ++
  [("rxlen".toList, .rxlen), ("flen".toList, .flen), ("fcrc".toList, .fcrc), ("rcrc".toList, .rcrc),
   ("hdr".toList, .hdr), ("bytecnt".toList, .bytecnt), ("paylen".toList, .paylen),
   ("txlen".toList, .txlen)]

/-- The register a name stands for, `FRAME[i]` and `TXBUF[k]` included. -/
def registerNamed (cs : List Char) : Option RegName :=
  match registerNames.lookup cs with
  | some r => some r
  | none =>
    match indexOf "frame".toList cs with
    | some i => if h : i < 256 then some (.frame ⟨i, h⟩) else none
    | none =>
      match indexOf "txbuf".toList cs with
      | some k => if h : k < 8 then some (.txbuf ⟨k, h⟩) else none
      | none => none

/-- The address of `RD reg`: a name or a hex address (R89). -/
def readAddress (cs : List Char) : Option Addr :=
  match registerNamed cs with
  | some r => some r.addr
  | none => hexLiteral 9 cs

/-- The address of `WR reg, v`: START, COUNT, CFG or a hex address (R89). -/
def writeAddress (cs : List Char) : Option Addr :=
  match registerNames.lookup cs with
  | some r => if r = .start ∨ r = .count ∨ r = .cfg then some r.addr else none
  | none => hexLiteral 9 cs

/-- The mnemonics without operand (R89, R90). -/
def bareLines : List (List Char × AsmLine) :=
  [("nop".toList, .mnemonic .nop), ("reset".toList, .mnemonic .reset),
   ("crc.init".toList, .mnemonic .crcInit), ("build".toList, .mnemonic .build),
   ("build.di".toList, .mnemonic .buildDi), ("build.g2".toList, .mnemonic .buildG2),
   ("build.r6".toList, .mnemonic .buildR6)] ++
  [("recv.raw".toList, .mnemonic .recvRaw), ("finish".toList, .mnemonic .finish),
   ("abort.to".toList, .mnemonic .abortTo), ("abort.can".toList, .mnemonic .abortCan),
   ("ack".toList, .mnemonic .ack), ("hwreset".toList, .hwreset), ("clr.err.all".toList, .clrErrAll)]

/-! ### Lines -/

/-- A mnemonic with operands (R89, R90). -/
def operandLine (op : List Char) (args : List (List Char)) : Option AsmLine :=
  if op = "pushs".toList then (hexBytes args).map .pushs
  else if op = "crc.feeds".toList then (hexBytes args).map .crcFeeds
  else
    match args with
    | [a] =>
      if op = "crc.feed".toList then (hexLiteral 8 a).map fun b => .mnemonic (.crcFeed b)
      else if op = "push".toList then (hexLiteral 8 a).map fun b => .mnemonic (.push b)
      else if op = "clr.err".toList then (hexLiteral 8 a).map fun m => .mnemonic (.clrErr m)
      else if op = "rd".toList then (readAddress a).map .rd
      else if op = ".word".toList then (hexLiteral 16 a).map .word
      else none
    | [a, [','], v] =>
      if op = "wr".toList then
        (writeAddress a).bind fun r => (hexLiteral 16 v).map fun d => .wr r d
      else if op = "req".toList then
        (hexLiteral 16 a).bind fun s => (hexLiteral 16 v).map fun n => .req s n
      else none
    | _ => none

/-- The transactions of one line: none for a blank line or a comment, nothing at all for a line outside the
syntax. -/
def assembleLine (line : String) : Option (List HostTxn) :=
  match lineWords line with
  | [] => some []
  | [op] => (bareLines.lookup op).map AsmLine.expand
  | op :: args => (operandLine op args).map AsmLine.expand

/-- The transactions of a host program, in order. -/
def assemble (program : List String) : Option (List HostTxn) :=
  program.foldr (fun line acc => acc.bind fun rest => (assembleLine line).map (· ++ rest)) (some [])

end Sys2Proof.Machine
end

