-- ==== Sys2Proof/Tests/Slice0.lean ====
section
/-! SUPPORT. Tests of one step each, with the expected results of spec/95_test_vectors.md (the vector's id stands
before each), and one witness for the hypotheses of each statement. -/

namespace Sys2Proof.Tests

open Sys2Proof Sys2Proof.Machine

/-! ### Well-formed terms: the smoke test -/

/-- A legal word written to CMD is its command, so the term `wrCmd` of it is refused. -/
theorem test_wellFormed_refuses_wrCmd_of_commands :
    (Instr.wrCmd 0x0000).wellFormed = false ∧ (Instr.wrCmd 0x60FF).wellFormed = false ∧
    (Instr.wrCmd 0x8100).wellFormed = false ∧ (Instr.wrCmd 0xA000).wellFormed = false := by decide

/-- The four addresses a Write acts on are refused in `wrOther`. -/
theorem test_wellFormed_refuses_wrOther_of_writable :
    (Instr.wrOther 0x000 5).wellFormed = false ∧ (Instr.wrOther 0x003 5).wellFormed = false ∧
    (Instr.wrOther 0x004 5).wellFormed = false ∧ (Instr.wrOther 0x005 5).wellFormed = false := by decide

theorem test_wellFormed_accepts :
    (Instr.wrCmd 0xF123).wellFormed = true ∧ (Instr.wrOther 0x001 5).wellFormed = true ∧
    (Instr.wrOther 0x1FF 5).wellFormed = true ∧ (Instr.push 0xFF).wellFormed = true ∧
    (Instr.rd 0x1FF).wellFormed = true ∧ Instr.hwreset.wellFormed = true := by decide

/-! ### Decoding: words written out from the opcode map R83 -/

theorem test_decode_fixed_words :
    decodeCommand 0x0000 = .ok .nop ∧ decodeCommand 0x1000 = .ok .reset ∧
    decodeCommand 0x2000 = .ok .crcInit ∧ decodeCommand 0x5000 = .ok .recvRaw ∧
    decodeCommand 0x7000 = .ok .finish ∧ decodeCommand 0x9000 = .ok .ack := by decide

theorem test_decode_byte_operands :
    decodeCommand 0x3001 = .ok (.crcFeed 0x01) ∧ decodeCommand 0x30FF = .ok (.crcFeed 0xFF) ∧
    decodeCommand 0x6032 = .ok (.push 0x32) ∧ decodeCommand 0x60DA = .ok (.push 0xDA) ∧
    decodeCommand 0xA00F = .ok (.clrErr 0x0F) ∧ decodeCommand 0xA0F0 = .ok (.clrErr 0xF0) := by decide

theorem test_decode_build_and_abort :
    decodeCommand 0x4000 = .ok .build ∧ decodeCommand 0x4100 = .ok .buildDi ∧
    decodeCommand 0x4200 = .ok .buildG2 ∧ decodeCommand 0x4300 = .ok .buildR6 ∧
    decodeCommand 0x8000 = .ok .abortTo ∧ decodeCommand 0x8100 = .ok .abortCan := by decide

/-- V-K8, V-C15, V-C16, V-B15, by the class of R84. -/
theorem test_decode_illegal_words :
    decodeCommand 0x0001 = .error .operandBits ∧ decodeCommand 0x1001 = .error .operandBits ∧
    decodeCommand 0x2001 = .error .operandBits ∧ decodeCommand 0x9001 = .error .operandBits ∧
    decodeCommand 0x3101 = .error .subNotZero ∧ decodeCommand 0xA100 = .error .subNotZero ∧
    decodeCommand 0x4001 = .error .buildField ∧ decodeCommand 0x4101 = .error .buildField ∧
    decodeCommand 0x4400 = .error .buildField ∧ decodeCommand 0x8001 = .error .abortField ∧
    decodeCommand 0x8200 = .error .abortField ∧ decodeCommand 0xB000 = .error .unassignedOp ∧
    decodeCommand 0xF123 = .error .unassignedOp := by decide

/-- R88, R195, R199, R240: the kind and the address select the bus row. -/
theorem test_decode_transactions :
    decodeTxn (.write 0x003 0x1234) = .wrStart 0x1234 ∧ decodeTxn (.write 0x004 0x007D) = .wrCount 0x007D ∧
    decodeTxn (.write 0x005 0xFFFF) = .wrCfg 0xFFFF ∧ decodeTxn (.write 0x000 0xB000) = .wrCmd 0xB000 ∧
    decodeTxn (.write 0x000 0x60AA) = .push 0xAA ∧ decodeTxn (.write 0x001 0x0005) = .wrOther 0x001 5 ∧
    decodeTxn (.read 0x116) = .rd 0x116 ∧ decodeTxn .reset = .hwreset := by decide

theorem test_decode_table_words :
    decodeTableWord 16 0x4200 = some .buildG2 ∧ decodeTableWord 8 0xFF4200 = some .nop ∧
    decodeTableWord 16 0xB000 = none ∧ decodeTableWord 32 0x4200 = none := by decide

/-- The transactions column of the programs P1, P3, P4 and P5. -/
theorem test_expand_lines :
    (AsmLine.pushs [0x32, 0x01]).expand = [.write 0x000 0x6032, .write 0x000 0x6001] ∧
    (AsmLine.crcFeeds [0x31]).expand = [.write 0x000 0x3031] ∧
    (AsmLine.req 0x0000 0x000A).expand =
      [.write 0x003 0x0000, .write 0x004 0x000A, .write 0x000 0x4000] ∧
    AsmLine.clrErrAll.expand = [.write 0x000 0xA00F] ∧
    (AsmLine.word 0xB000).expand = [.write 0x000 0xB000] ∧
    (AsmLine.rd (RegName.frame 22).addr).expand = [.read 0x116] ∧
    (AsmLine.wr RegName.cfg.addr 0x0003).expand = [.write 0x005 0x0003] := by decide

/-- Lines of the programs P1, P3, P4 and P5 and their encodings. -/
theorem test_assemble_lines :
    assembleLine "PUSHS 32 01 ; marker" = some [.write 0x000 0x6032, .write 0x000 0x6001] ∧
    assembleLine "WR CFG, 0001" = some [.write 0x005 0x0001] ∧
    assembleLine "WR 006, 0001" = some [.write 0x006 0x0001] ∧
    assembleLine "RD FRAME[17]" = some [.read 0x111] ∧ assembleLine "rd txbuf[7]" = some [.read 0x017] ∧
    assembleLine "RD STATUS" = some [.read 0x001] ∧ assembleLine "CRC.FEED 4B" = some [.write 0x000 0x304B] ∧
    assembleLine "CLR.ERR 04" = some [.write 0x000 0xA004] := by decide +kernel

theorem test_assemble_program :
    assemble ["HWRESET", "REQ 0000, 000A", "ABORT.TO", ".word B000"] =
      some [.reset, .write 0x003 0x0000, .write 0x004 0x000A, .write 0x000 0x4000, .write 0x000 0x8000,
        .write 0x000 0xB000] := by decide +kernel

/-- Lines outside the syntax, and lines with no transaction. -/
theorem test_assemble_refuses :
    assembleLine "PUSH 100" = none ∧ assembleLine "WR STATUS, 0005" = none ∧ assembleLine "RD FRAME[256]" = none ∧
    assembleLine "PUSHS" = none ∧ assembleLine "NOP 00" = none ∧ assembleLine "  ; a comment" = some [] := by
  decide +kernel

/-! ### Small states -/

/-- After `WR COUNT, 0002; BUILD` with TXBUF as V-B3 prints it. -/
def armed2 : State :=
  { State.reset with
    count := 2, state := .armed, explen := 9, txlen := 8,
    txbuf := ⟨0x01, 0x03, 0x00, 0x00, 0x00, 0x02, 0xC4, 0x0B⟩ }

/-- The 2-register response R2 of 95_test_vectors.md 2.3. -/
def r2 : List Byte := [0x01, 0x03, 0x04, 0x00, 0x01, 0x00, 0x02, 0x2A, 0x32]

/-- V-P10: R2 with one bit flipped. -/
def r2Bad : List Byte := [0x01, 0x03, 0x04, 0x01, 0x01, 0x00, 0x02, 0x2A, 0x32]

/-- A RAW receive holding some bytes. -/
def rawWith (bs : List Byte) : State := { State.reset with state := .armed, kind := .raw, buf := bs }

/-- V-R1's end state, V-R1 started from `armed2`. -/
def done2 : State := { armed2 with state := .done, result := .ok, buf := r2 }

/-- V-R14's end state without its request. -/
def timedOut : State := { State.reset with state := .done, result := .timedOut, kind := .devinfo, explen := 31 }

/-- Some bytes with their CRC appended. -/
def withCrc (bs : List Byte) : List Byte := bs ++ [(crc16 bs).setWidth 8, (crc16 bs >>> 8).setWidth 8]

theorem crcOk_withCrc (bs : List Byte) : crcOk (withCrc bs) = true := by
  rw [withCrc, crcOk_append_two, wordOfBytes_of_word, decide_eq_true rfl]

theorem length_withCrc (bs : List Byte) : (withCrc bs).length = bs.length + 2 := by simp [withCrc]

/-- The Gen2 response of V-V13: 118 payload bytes 00. -/
def gen2Full : List Byte := [0x01, 0x03, 0x76] ++ List.replicate 118 0x00 ++ [0x2D, 0x44]

/-! ### CRC -/

/-- V-C2 to V-C6. -/
theorem test_crc16_short :
    crc16 [0x00] = 0x40BF ∧ crc16 [0x01] = 0x807E ∧ crc16 [0xFF] = 0x00FF ∧ crc16 [0x32] = 0x953E ∧
    crc16 [0x01, 0x03] = 0x2140 := by decide +kernel

/-- V-C7, V-C8. -/
theorem test_crc16_long :
    crc16 [0x31, 0x32, 0x33, 0x34, 0x35, 0x36, 0x37, 0x38, 0x39] = 0x4B37 ∧
    crc16 [0x01, 0x03, 0x8F, 0x00, 0x00, 0x0D] = 0xDBAE ∧ crcBytes 0xDBAE = [0xAE, 0xDB] := by
  decide +kernel

/-- V-C10. -/
theorem test_crcTable :
    crcTable 0x00 = 0x0000 ∧ crcTable 0x01 = 0xC0C1 ∧ crcTable 0x02 = 0xC181 ∧ crcTable 0x03 = 0x0140 ∧
    crcTable 0x80 = 0xA001 ∧ crcTable 0xFF = 0x4040 := by decide +kernel

/-- V-C11. -/
theorem test_crcFeed : answer (exec (.crcFeed 0x01) armed2) = some { armed2 with crc := 0x807E } := by
  decide +kernel

/-- V-C14. -/
theorem test_crcInit :
    answer (exec .crcInit { armed2 with crc := 0x4B37 }) = some { armed2 with crc := 0xFFFF } := by
  decide +kernel

/-! ### Request builder -/

/-- V-B3. -/
theorem test_build : answer (exec .build { State.reset with count := 2 }) = some armed2 := by
  decide +kernel

/-- V-B6. -/
theorem test_build_illegal_count :
    answer (exec .build { State.reset with count := 126 }) =
      some { State.reset with count := 126, state := .done, result := .invalidRequest } := by decide +kernel

/-- V-B9, V-B10 to V-B12: the bytes of TXBUF, and EXPLEN. -/
theorem test_build_requests :
    requestBuf ⟨0x1234, 125⟩ = ⟨0x01, 0x03, 0x12, 0x34, 0x00, 0x7D, 0xC1, 0x5D⟩ ∧
    requestBuf presetDeviceInfo = ⟨0x01, 0x03, 0x8F, 0x00, 0x00, 0x0D, 0xAE, 0xDB⟩ ∧
    requestBuf presetGen2 = ⟨0x01, 0x03, 0x01, 0x00, 0x00, 0x3B, 0x05, 0xE5⟩ ∧
    requestBuf presetR6 = ⟨0x01, 0x03, 0x60, 0x04, 0x00, 0x5F, 0x5A, 0x33⟩ ∧
    expectedLength ⟨0x1234, 125⟩ = 255 ∧ expectedLength presetR6 = 195 := by decide +kernel

/-- V-B10, its STATUS. -/
theorem test_buildDi : (answer (exec .buildDi State.reset)).map (readReg 0x001) = some 0x0011 := by
  decide +kernel

/-- V-B11, V-B13. -/
theorem test_buildG2 :
    (answer (exec .buildG2 State.reset)).map (readReg 0x001) = some 0x0021 ∧
    answer (exec .buildG2 armed2) = some { armed2 with err := 0x2 } := by decide +kernel

/-- V-B12. -/
theorem test_buildR6 :
    (answer (exec .buildR6 State.reset)).map (readReg 0x007) = some 195 := by decide +kernel

/-! ### Receive path -/

/-- V-R9, its arming; P5 line 8. -/
theorem test_recvRaw :
    answer (exec .recvRaw State.reset) = some (rawWith []) ∧
    answer (exec .recvRaw (rawWith [])) = some { rawWith [] with err := 0x2 } := by decide +kernel

/-- V-R1 and V-P10: the ninth byte. -/
theorem test_push_completes :
    answer (exec (.push 0x32) { armed2 with buf := r2.take 8 }) = some done2 ∧
    answer (exec (.push 0x32) { armed2 with buf := r2Bad.take 8 }) =
      some { armed2 with state := .done, result := .crcMismatch } := by decide +kernel

/-- V-R2's first byte, V-R6's last, V-R7. -/
theorem test_push_marker_data_stray :
    answer (exec (.push 0x32) armed2) = some { armed2 with marker := true, explen := 10, buf := [0x32] } ∧
    answer (exec (.push 0x32) { armed2 with buf := [0x01, 0x03] }) =
      some { armed2 with buf := [0x01, 0x03, 0x32] } ∧
    answer (exec (.push 0x01) State.reset) = some { State.reset with err := 0x4 } := by decide +kernel

/-- V-R3: the views of a frame in progress behind a marker. -/
theorem test_views_mid_frame :
    let s := { armed2 with marker := true, explen := 10, buf := [0x32, 0x01, 0x03, 0x04] }
    readReg 0x001 s = 0x0005 ∧ readReg 0x008 s = 4 ∧ readReg 0x009 s = 3 ∧ readReg 0x00A s = 0x807E ∧
    readReg 0x00B s = 0x0403 ∧ readReg 0x00C s = 0x0103 ∧ readReg 0x00D s = 4 ∧ readReg 0x00E s = 0 := by
  decide +kernel

/-- V-R5, V-R10. -/
theorem test_finish :
    answer (exec .finish { armed2 with marker := true, explen := 10, buf := [0x32] }) =
      some { armed2 with explen := 10, state := .done, result := .malformedFrame } ∧
    (answer (exec .finish (rawWith [0x32, 0x3E, 0x95]))).map (readReg 0x001) = some 0x0142 := by
  decide +kernel

/-- V-R14, V-R17. -/
theorem test_abortTo :
    answer (exec .abortTo { armed2 with buf := [0x01, 0x03, 0x1A] }) =
      some { armed2 with state := .done, result := .timedOut } ∧
    answer (exec .abortTo done2) = some done2 := by decide +kernel

/-- V-R15, V-R16. -/
theorem test_abortCan :
    (answer (exec .abortCan (rawWith [0x01]))).map (readReg 0x001) = some 0x0742 ∧
    answer (exec .abortCan State.reset) = some State.reset := by decide +kernel

/-! ### Verdict -/

/-- V-P1 to V-P7. -/
theorem test_verdict_raw :
    verdict Params.default [] .raw = .malformedFrame ∧
    verdict Params.default [0x01, 0x03] .raw = .malformedFrame ∧
    verdict Params.default [0x01, 0x7E, 0x80] .raw = .ok ∧
    verdict Params.default [0x01, 0x7E, 0x81] .raw = .crcMismatch ∧
    verdict Params.default [0x01, 0x03, 0x40, 0x21] .raw = .ok ∧
    verdict Params.default [0x01, 0x03, 0x41, 0x21] .raw = .crcMismatch := by decide +kernel

/-- V-P9, V-P11 to V-P13. -/
theorem test_verdict_custom :
    verdict Params.default r2 .custom = .ok ∧
    verdict Params.default (r2.set 8 0xB2) .custom = .crcMismatch ∧
    verdict Params.default [0x05, 0x83, 0x04, 0x00, 0x01, 0x00, 0x02, 0x70, 0x32] .custom = .ok ∧
    verdict Params.default [0x01, 0x03, 0x04, 0x00, 0x01, 0x00, 0x02, 0x32, 0x2A] .custom = .crcMismatch := by
  decide +kernel

/-- V-V10, V-V17, and the boundary of the minimum on V-V10's frame. -/
theorem test_verdict_schema :
    verdict Params.default [0x01, 0x03, 0x04, 0x00, 0x00, 0x00, 0x00, 0xFA, 0x33] .gen2 = .insufficientData ∧
    verdict Params.default [0x01, 0x03, 0x04, 0x00, 0x00, 0x00, 0x00, 0xFA, 0x32] .gen2 = .crcMismatch ∧
    verdict Params.default [0x01, 0x03, 0x04, 0x00, 0x00, 0x00, 0x00, 0xFA, 0x33] .devinfo = .ok ∧
    verdict ⟨4, 5⟩ [0x01, 0x03, 0x04, 0x00, 0x00, 0x00, 0x00, 0xFA, 0x33] .gen2 = .ok ∧
    verdict ⟨4, 5⟩ [0x01, 0x03, 0x04, 0x00, 0x00, 0x00, 0x00, 0xFA, 0x33] .r6 = .insufficientData := by
  decide +kernel

/-- The CRC register along V-V13's frame, twenty bytes at a time. -/
theorem gen2Full_crc_pieces :
    crc16 [0x01, 0x03, 0x76] = 0x16A1 ∧
    (List.replicate 20 0x00).foldl crcStep 0x16A1 = 0x23E9 ∧ (List.replicate 20 0x00).foldl crcStep 0x23E9 = 0x6D85 ∧
    (List.replicate 20 0x00).foldl crcStep 0x6D85 = 0x2E63 ∧ (List.replicate 20 0x00).foldl crcStep 0x2E63 = 0xB52C ∧
    (List.replicate 20 0x00).foldl crcStep 0xB52C = 0xBC3D ∧ (List.replicate 18 0x00).foldl crcStep 0xBC3D = 0x442D := by
  decide +kernel

theorem gen2Full_crcOk : crcOk gen2Full = true := by
  have hs : (List.replicate 118 0x00 : List Byte) = List.replicate 20 0x00 ++ List.replicate 20 0x00 ++
      List.replicate 20 0x00 ++ List.replicate 20 0x00 ++ List.replicate 20 0x00 ++ List.replicate 18 0x00 := by
    simp only [List.replicate_append_replicate]
  obtain ⟨h0, h1, h2, h3, h4, h5, h6⟩ := gen2Full_crc_pieces
  rw [gen2Full, crcOk_append_two, crc16_append, hs]
  simp only [List.foldl_append, h0, h1, h2, h3, h4, h5, h6]
  decide

/-- V-V13, V-V18. -/
theorem test_verdict_gen2_full :
    verdict Params.default gen2Full .gen2 = .ok ∧ verdict ⟨210, 114⟩ gen2Full .gen2 = .insufficientData := by
  have hl : gen2Full.length = 123 := by simp [gen2Full]
  simp [verdict, payloadLen, gen2Full_crcOk, hl, Params.default]

/-! ### Control and register access -/

/-- V-K1. -/
theorem test_nop : answer (exec .nop done2) = some done2 := by decide

/-- V-K2 and R240. -/
theorem test_reset :
    answer (exec .reset { armed2 with start := 0x1234, buf := [1, 2, 3, 4], crc := 0 }) = some State.reset ∧
    answer (exec .hwreset { armed2 with start := 0x1234, buf := [1, 2, 3, 4], cfg := 3 }) =
      some State.reset := by decide

/-- V-K3, V-K4. -/
theorem test_ack :
    answer (exec .ack done2) = some { done2 with state := .idle } ∧
    answer (exec .ack armed2) = some armed2 := by decide

/-- V-K5 to V-K7, and R193's example. -/
theorem test_clrErr :
    answer (exec (.clrErr 0x02) { State.reset with err := 0b0110 }) = some { State.reset with err := 0b0100 } ∧
    answer (exec (.clrErr 0x02) { State.reset with err := 0xD }) = some { State.reset with err := 0xD } ∧
    answer (exec (.clrErr 0xF0) { State.reset with err := 0xD }) = some { State.reset with err := 0xD } ∧
    answer (exec (.clrErr 0x0F) { State.reset with err := 0xD }) = some State.reset := by decide

theorem test_wrStart : answer (exec (.wrStart 0x1234) armed2) = some { armed2 with start := 0x1234 } := by
  decide

theorem test_wrCount : answer (exec (.wrCount 0xFFFF) armed2) = some { armed2 with count := 0xFFFF } := by
  decide

/-- V-K11, V-K12. -/
theorem test_wrCfg :
    answer (exec (.wrCfg 0xFFFF) State.reset) = some { State.reset with cfg := 3 } ∧
    readReg 0x001 { State.reset with cfg := 1, state := .done, result := .invalidRequest } = 0x020A := by
  decide

/-- V-K8, P5 line 5; V-B15. -/
theorem test_wrCmd :
    answer (exec (.wrCmd 0xB000) { State.reset with err := 0x4 }) = some { State.reset with err := 0x5 } ∧
    answer (exec (.wrCmd 0x4101) armed2) = some { armed2 with err := 0x1 } ∧
    answer (exec (.wrCmd 0x60AA) armed2) = some { armed2 with buf := [0xAA] } := by decide

/-- V-K9, V-K10, P5 line 6. -/
theorem test_wrOther :
    answer (exec (.wrOther 0x001 5) armed2) = some { armed2 with err := 0x8 } ∧
    answer (exec (.wrOther 0x100 5) armed2) = some { armed2 with err := 0x8 } ∧
    answer (exec (.wrOther 0x006 1) armed2) = some { armed2 with err := 0x8 } := by decide

/-- V-K16, V-K17. -/
theorem test_rd_reset :
    readReg 0x000 State.reset = 0 ∧ readReg 0x018 State.reset = 0 ∧ readReg 0x0FF State.reset = 0 ∧
    readReg 0x1FF State.reset = 0 ∧ answer (exec (.rd 0x006) State.reset) =
      some { State.reset with readData := some 0xFFFF } := by decide

/-- V-K18, V-R1's views, P1 line 5. -/
theorem test_rd_views :
    readReg 0x100 (rawWith [0xFF]) = 0x00FF ∧ readReg 0x101 (rawWith [0xFF]) = 0 ∧
    readReg 0x00E (rawWith [0xFF]) = 0 ∧ readReg 0x001 done2 = 0x0102 ∧ readReg 0x00A done2 = 0x322A ∧
    readReg 0x00B done2 = 0x322A ∧ readReg 0x00C done2 = 0x0103 ∧ readReg 0x016 done2 = 0x00C4 ∧
    readReg 0x017 done2 = 0x000B := by decide +kernel

/-- V-K14, V-K15. -/
theorem test_irq :
    readReg 0x001 { State.reset with cfg := 2, err := 0x4 } = 0x0008 ∧
    readReg 0x001 { State.reset with cfg := 2 } = 0x0000 := by decide

/-- A command word placed as the next transaction runs in one step. -/
theorem test_step_fetches :
    answer (step (State.reset.withFetchWord 16 0x5000)) = some (rawWith []) ∧
    answer (step (State.reset.withFetchWord 16 0xF123)) = some { State.reset with err := 0x1 } ∧
    answer (step State.reset) = some State.reset := by decide

/-! ### Witnesses -/

theorem inv_armed2 : Inv armed2 := by
  constructor <;> decide +kernel

theorem inv_timedOut : Inv timedOut := by
  constructor <;> decide

theorem inv_done2 : Inv done2 := by
  constructor <;> decide +kernel

/-- DecoderFollowsItsPseudocode: words of each `OP` clause, both answers. -/
theorem witness_DecoderFollowsItsPseudocode :
    (0x3001#16).toNat / 4096 = 3 ∧ (0x3101#16).toNat / 256 % 16 = 1 ∧ (0x4300#16).toNat / 4096 = 4 ∧
    (0x4400#16).toNat / 256 % 16 = 4 ∧ (0x8100#16).toNat / 4096 = 8 ∧ (0x7000#16).toNat % 4096 = 0 ∧
    (0x0FFF#16).toNat % 4096 ≠ 0 ∧ (0xA00F#16).toNat / 4096 = 0xA ∧ 0xB ≤ (0xB000#16).toNat / 4096 ∧
    0xB ≤ (0xFFFF#16).toNat / 4096 := by decide

/-- DecodingIsStrict, CommandErrorsHaveTheirCauses: a word of each class of R84, and the last legal ones. -/
theorem witness_DecodingIsStrict :
    isCommandWord 0xB000 = false ∧ isCommandWord 0xFFFF = false ∧ isCommandWord 0x0001 = false ∧
    isCommandWord 0x9FFF = false ∧ isCommandWord 0x3100 = false ∧ isCommandWord 0xAF00 = false ∧
    isCommandWord 0x4400 = false ∧ isCommandWord 0x4301 = false ∧ isCommandWord 0x8200 = false ∧
    isCommandWord 0x8101 = false ∧ isCommandWord 0x8100 = true ∧ isCommandWord 0xA0FF = true := by decide

theorem witness_OpcodeRowsNeverOverlap :
    (⟨0xFF00, 0x3000⟩ : CommandRow) ∈ commandRows ∧ CommandRow.covers ⟨0xFF00, 0x3000⟩ 0x30A5 = true := by
  decide

theorem witness_DecodeOfEncodeIsIdentity :
    (Instr.clrErr 0xFF).wellFormed = true ∧ (Instr.wrCmd 0x0001).wellFormed = true ∧
    (Instr.wrOther 0x002 0xFFFF).wellFormed = true := by decide

theorem witness_StepRunsTheDecodedInstruction :
    (Instr.push 0x32).wellFormed = true ∧
    ({ armed2 with pending := [.write 0x000 0x6032, .read 0x001] } : State).pending =
      encode (.push 0x32) :: [.read 0x001] ∧
    armed2.pending = [] := by decide

/-- FetchedWordRunsItsCommand: the full width, and the shortest. -/
theorem witness_FetchedWordRunsItsCommand :
    decodeTableWord 16 0xA0FF = some (.clrErr 0xFF) ∧ decodeTableWord 0 0xFFFF = some .nop := by decide

theorem witness_MeaningFollowsTheTransaction : decodeCommand 0x60FF = .ok (.push 0xFF) := by decide

theorem witness_ModelFieldsAreLeftAlone :
    exec (.push 0x01) State.reset = .next { State.reset with err := 0x4 } ∧ ∀ a, Instr.push 0x01 ≠ .rd a :=
  ⟨rfl, fun _ => nofun⟩

/-- CrcOkAcceptsExactlyAndDetectsOneBit: the shortest frame, and the first and last bit of V-P4. -/
theorem witness_CrcOkAcceptsExactlyAndDetectsOneBit :
    2 ≤ ([0xFF, 0xFF] : List Byte).length ∧ crcOk [0xFF, 0xFF] = true ∧
    withCrc [0x01] = [0x01, 0x7E, 0x80] ∧ 0 < (withCrc [0x01]).length ∧ 2 < (withCrc [0x01]).length ∧
    0 < 8 ∧ 7 < 8 := by decide +kernel

theorem witness_CrcInitSetsOnlyCrc : (0x001#12) ≠ 0 ∧ (0xFFF#12) ≠ 0 := by decide

theorem witness_CrcFeedFoldsOneByte : (0x1#4) ≠ 0 ∧ (0xF#4) ≠ 0 ∧ (0x30#8 ++ 0x01#8) = 0x3001#16 := by decide

theorem witness_CrcEngineIsIndependent :
    Instr.nop.canonical ≠ .crcInit ∧ (∀ b, Instr.nop.canonical ≠ .crcFeed b) ∧ ¬ IsReset Instr.nop.canonical ∧
    (∀ a, Instr.nop ≠ .rd a) ∧ exec .nop armed2 = .next armed2 := by
  rw [show Instr.nop.canonical = .nop from by decide]
  refine ⟨by decide, fun _ => by simp, ?_, fun _ => by simp, rfl⟩
  simp [IsReset]

/-- BuildCustomRequest: the counts on both sides of both limits. -/
theorem witness_BuildCustomRequest :
    State.reset.state ≠ .armed ∧ armed2.state = .armed ∧ (1#16).toNat < 2 ∧ 2 ≤ (2#16).toNat ∧
    (125#16).toNat ≤ 125 ∧ 125 < (126#16).toNat ∧ 125 < (0xFFFF#16).toNat := by decide

theorem witness_PresetRequestsArm : done2.state ≠ .armed ∧ armed2.state = .armed := by decide

theorem witness_RequestBytesAreKept :
    exec .build { State.reset with count := 2 } = .next armed2 ∧ armed2.txbuf ≠ State.reset.txbuf ∧
    armed2.txlen ≠ State.reset.txlen := by
  refine ⟨?_, by decide, by decide⟩
  have h := test_build
  cases he : exec .build { State.reset with count := 2 } with
  | next t => rw [he] at h; cases h; rfl
  | fault r => cases r
  | refused r => rw [he] at h; cases h

theorem witness_RecvRawArms : armed2.state = .armed ∧ State.reset.state ≠ .armed := by decide

/-- PushStoresOneByte: a RAW receive with 255 bytes, a marker at EXPLEN 9, and a byte before the last. -/
theorem witness_PushStoresOneByte :
    (rawWith (List.replicate 255 0)).state = .armed ∧ (rawWith (List.replicate 255 0)).kind = .raw ∧
    (rawWith (List.replicate 255 0)).buf.length ≠ 256 ∧
    armed2.state = .armed ∧ armed2.kind ≠ .raw ∧ armed2.buf = [] ∧ (armed2.explen + 1).toNat ≠ 1 ∧
    (r2.take 7 ≠ [] ∧ (r2.take 7).length + 1 ≠ armed2.explen.toNat) ∧
    ((0x01#8) ≠ 0x32 ∧ armed2.buf.length + 1 ≠ armed2.explen.toNat) := by decide +kernel

/-- PushEndsTheReceive: 256 bytes in a RAW receive, EXPLEN 0, the last byte of a good and of a bad frame. -/
theorem witness_PushEndsTheReceive :
    (rawWith (List.replicate 256 0)).buf.length = 256 ∧
    ({ armed2 with explen := 0 } : State).buf = [] ∧ (({ armed2 with explen := 0 } : State).explen + 1).toNat = 1 ∧
    armed2.state = .armed ∧ armed2.kind ≠ .raw ∧ r2.take 8 ≠ [] ∧ (r2.take 8).length + 1 = armed2.explen.toNat ∧
    verdict armed2.params (r2.take 8 ++ [0x32]) armed2.kind = .ok ∧
    verdict armed2.params (r2Bad.take 8 ++ [0x32]) armed2.kind ≠ .ok := by decide +kernel

theorem witness_FinishRecordsTheVerdict :
    State.reset.state ≠ .armed ∧ (rawWith [0x01, 0x7E, 0x80]).state = .armed ∧
    verdict Params.default [0x01, 0x7E, 0x80] .raw = .ok ∧ verdict Params.default [] .raw ≠ .ok := by
  decide +kernel

theorem witness_AbortEndsOnlyAReceive : (rawWith [0x01]).state = .armed ∧ done2.state ≠ .armed := by decide

/-- StrayBytesAreDiscarded: some bytes, and FINISH alone. -/
theorem witness_StrayBytesAreDiscarded :
    done2.state ≠ .armed ∧ State.reset.state ≠ .armed ∧ ([0xAA] : List Byte) ≠ [] := by decide

/-- ResponseDeliveryGivesItsVerdict: R2 and V-P10, for both clauses. -/
theorem witness_ResponseDeliveryGivesItsVerdict :
    armed2.state = .armed ∧ armed2.kind ≠ .raw ∧ armed2.buf = [] ∧ armed2.marker = false ∧
    (r2 ≠ [] ∧ r2.head? ≠ some 0x32 ∧ r2.length = armed2.explen.toNat ∧
      verdict armed2.params r2 armed2.kind = .ok) ∧
    (r2Bad ≠ [] ∧ r2Bad.head? ≠ some 0x32 ∧ r2Bad.length = armed2.explen.toNat ∧
      verdict armed2.params r2Bad armed2.kind ≠ .ok) := by decide +kernel

/-- MarkerByteChangesNoVerdict: at EXPLEN 9, 1 and 255. -/
theorem witness_MarkerByteChangesNoVerdict :
    armed2.state = .armed ∧ armed2.kind ≠ .raw ∧ armed2.buf = [] ∧ armed2.marker = false ∧
    0 < armed2.explen.toNat ∧ armed2.explen.toNat ≤ 255 ∧ r2 ≠ [] ∧ r2.head? ≠ some 0x32 ∧
    armed2.explen.toNat ≤ r2.length ∧
    ((({ armed2 with explen := 1 } : State).explen.toNat = 1) ∧
      ({ armed2 with explen := 255 } : State).explen.toNat ≤ 255) := by decide

theorem witness_RawReceiveJudgesItsBytes :
    State.reset.state ≠ .armed ∧ ([] : List Byte).length ≤ 256 ∧
    (List.replicate 256 (0x32 : Byte)).length ≤ 256 ∧ (List.replicate 257 (0x00 : Byte)).length = 257 :=
  ⟨by decide, by decide, List.length_replicate.le, List.length_replicate⟩

theorem witness_DeadlineRaceIsSettledByOrder :
    ∃ t, exec (.push 0x32) { armed2 with buf := r2.take 8 } = .next t ∧ t.state = .done := by
  have h := test_push_completes.1
  cases he : exec (.push 0x32) { armed2 with buf := r2.take 8 } with
  | next t => rw [he] at h; cases h; exact ⟨done2, rfl, rfl⟩
  | fault r => cases r
  | refused r => rw [he] at h; cases h

/-- VerdictChecksInOrder: lengths 2 and 3, a wrong CRC, payloads below and at the minimum. -/
theorem witness_VerdictChecksInOrder :
    ([0x01, 0x03] : List Byte).length < 3 ∧ crcOk [0x01, 0x7E, 0x81] = false ∧ crcOk [0x01, 0x7E, 0x80] = true ∧
    3 ≤ ([0x01, 0x7E, 0x80] : List Byte).length ∧ crcOk r2 = true ∧
    r2.length - 5 < (⟨5, 0⟩ : Params).gen2Min.val ∧ ¬ r2.length - 5 < (⟨4, 0⟩ : Params).gen2Min.val ∧
    r2.length - 5 < (⟨0, 251⟩ : Params).r6Min.val ∧ ¬ r2.length - 5 < (⟨251, 0⟩ : Params).r6Min.val := by
  decide +kernel

theorem witness_VerdictOfACrcCorrectFrame :
    ([0x01] : List Byte) ≠ [] ∧ 0 < (withCrc [0x01]).length ∧ 2 < (withCrc [0x01]).length ∧ 7 < 8 ∧
    verdict ⟨1, 0⟩ (withCrc [0x01]) .gen2 ≠ .ok := by decide +kernel

theorem witness_FullPresetResponsePassesItsMinimum :
    (crcOk gen2Full = true ∧ gen2Full.length = 123) ∧
    (crcOk (withCrc (List.replicate 193 0)) = true ∧ (withCrc (List.replicate 193 0)).length = 195) :=
  ⟨⟨gen2Full_crcOk, by simp [gen2Full]⟩, crcOk_withCrc _, length_withCrc _⟩

theorem witness_BufferChangesOnlyByItsWriters :
    exec (.push 0x01) (rawWith []) = .next (rawWith [0x01]) ∧ (rawWith [0x01]).buf ≠ (rawWith []).buf :=
  ⟨rfl, by decide⟩

theorem witness_FailedFrameReadsEmpty :
    Inv timedOut ∧ timedOut.state ≠ .armed ∧ timedOut.result ≠ .none ∧ timedOut.result ≠ .ok ∧
    0x100 ≤ (0x100#9).toNat ∧ 0x100 ≤ (0x1FF#9).toNat := ⟨inv_timedOut, by decide⟩

theorem witness_AckReleasesTheResult : done2.state = .done ∧ armed2.state ≠ .done := by decide

/-- WriteActsByItsAddress: each address of the case split, a legal and an illegal word. -/
theorem witness_WriteActsByItsAddress :
    ({ armed2 with pending := [.write 0x000 0x60AA] } : State).pending = .write 0x000 0x60AA :: [] ∧
    decodeCommand 0x60AA = .ok (.push 0xAA) ∧ decodeCommand 0xF123 = .error .unassignedOp ∧
    (0x001#9 ≠ 0x000 ∧ 0x001#9 ≠ 0x003 ∧ 0x001#9 ≠ 0x004 ∧ 0x001#9 ≠ 0x005) ∧
    (0x1FF#9 ≠ 0x000 ∧ 0x1FF#9 ≠ 0x003 ∧ 0x1FF#9 ≠ 0x004 ∧ 0x1FF#9 ≠ 0x005) := by decide

/-- BusWritesComplete, ReadsHaveNoSideEffects, CommandErrorsHaveTheirCauses: addresses next to the writable ones
and the last. -/
theorem witness_BusWritesComplete :
    isWritable 0x001 = false ∧ isWritable 0x002 = false ∧ isWritable 0x006 = false ∧ isWritable 0x1FF = false ∧
    decodeCommand 0x60AA = .ok (.push 0xAA) ∧ decodeCommand 0xF123 = .error .unassignedOp := by decide

/-- ReadReturnsTheMap: frames of two bytes and one, the reserved range's ends. -/
theorem witness_ReadReturnsTheMap :
    2 ≤ (rawWith [0xFF, 0x00]).buf.length ∧ (rawWith [0xFF]).buf.length < 2 ∧
    0x018 ≤ (0x018#9).toNat ∧ (0x0FF#9).toNat < 0x100 ∧ 7 < 8 ∧ 255 < 256 := by decide

theorem witness_ReadsHaveNoSideEffects :
    (rawWith (List.replicate 254 0)).state = .armed ∧ (rawWith (List.replicate 254 0)).kind = .raw ∧
    (rawWith (List.replicate 254 0)).buf.length < 255 ∧ isWritable 0x006 = false := by decide +kernel

theorem witness_OperandRegistersHaveOneWriter :
    exec (.wrStart 1) State.reset = .next { State.reset with start := 1 } ∧ (1#16) ≠ State.reset.start ∧
    exec (.wrCount 1) State.reset = .next { State.reset with count := 1 } ∧ (1#16) ≠ State.reset.count ∧
    exec (.wrCfg 1) State.reset = .next { State.reset with cfg := 1 } ∧ (1#2) ≠ State.reset.cfg :=
  ⟨rfl, by decide, rfl, by decide, rfl, by decide⟩

/-- CommandErrorsHaveTheirCauses, AtMostOneErrorPerTransaction: each bit set by its cause. -/
theorem witness_CommandErrorsHaveTheirCauses :
    State.reset.err = 0 ∧ Instr.recvRaw.isArm = true ∧ armed2.state = .armed ∧ State.reset.state ≠ .armed ∧
    answer (exec (.wrCmd 0xB000) State.reset) = some { State.reset with err := 0b0001 } ∧
    answer (exec .recvRaw armed2) = some { armed2 with err := 0b0010 } ∧
    answer (exec .finish State.reset) = some { State.reset with err := 0b0100 } ∧
    answer (exec (.wrOther 0x002 0) State.reset) = some { State.reset with err := 0b1000 } := by decide

theorem witness_ErrBitsAreSticky :
    exec (.clrErr 0x04) { State.reset with err := 0b0101 } = .next { State.reset with err := 0b0001 } ∧
    (0b0101#4).getLsbD 2 = true ∧ (0b0001#4).getLsbD 2 = false := ⟨rfl, by decide, by decide⟩

theorem witness_AtMostOneErrorPerTransaction :
    exec (.push 0x01) State.reset = .next { State.reset with err := 0b0100 } ∧
    (0b0000#4).getLsbD 2 = false ∧ (0b0100#4).getLsbD 2 = true := ⟨rfl, by decide, by decide⟩

/-- StatusWordFields: the STATUS words of V-R16, V-B3, V-V1, V-V13, V-B12, V-R10, V-B1, V-R5, V-P10, V-V10, V-R14,
V-R15 and V-R12, between them every value of STATE, KIND and RESULT. -/
theorem witness_StatusWordFields :
    readReg 0x001 State.reset = 0x0000 ∧ readReg 0x001 armed2 = 0x0001 ∧
    readReg 0x001 { State.reset with state := .done, kind := .devinfo, result := .ok } = 0x0112 ∧
    readReg 0x001 { State.reset with state := .done, kind := .gen2, result := .ok } = 0x0122 ∧
    readReg 0x001 { State.reset with state := .armed, kind := .r6 } = 0x0031 ∧
    readReg 0x001 { State.reset with state := .done, kind := .raw, result := .ok } = 0x0142 ∧
    readReg 0x001 { State.reset with state := .done, result := .invalidRequest } = 0x0202 ∧
    readReg 0x001 { State.reset with state := .done, result := .malformedFrame } = 0x0302 ∧
    readReg 0x001 { State.reset with state := .done, result := .crcMismatch } = 0x0402 ∧
    readReg 0x001 { State.reset with state := .done, kind := .gen2, result := .insufficientData } = 0x0522 ∧
    readReg 0x001 timedOut = 0x0612 ∧
    readReg 0x001 { State.reset with state := .done, kind := .raw, result := .cancelled } = 0x0742 ∧
    readReg 0x001 { State.reset with state := .done, kind := .raw, result := .overflow } = 0x0842 := by decide

/-- IrqIsLoweredOnlyByItsCause: V-K13. -/
theorem witness_IrqIsLoweredOnlyByItsCause :
    exec .ack { done2 with cfg := 1 } = .next { done2 with cfg := 1, state := .idle } ∧
    irq { done2 with cfg := 1 } = true ∧ irq { done2 with cfg := 1, state := .idle } = false :=
  ⟨rfl, by decide, by decide⟩

theorem witness_StateChangesOnlyAlongItsEdges :
    exec .ack done2 = .next { done2 with state := .idle } ∧ RxState.idle ≠ done2.state := ⟨rfl, by decide⟩

/-- StepKeepsTheInvariant: a step that changes the state, from an armed state that meets the invariant. -/
theorem witness_StepKeepsTheInvariant :
    Inv (State.withFetchWord armed2 16 0x6032) ∧
    step (State.withFetchWord armed2 16 0x6032) =
      .next { armed2 with marker := true, explen := 10, buf := [0x32] } := by
  refine ⟨?_, rfl⟩
  constructor <;> decide +kernel

end Sys2Proof.Tests
end

namespace Sys2Proof.Machine

/-! ### The verdict OK (43_parse.md R176) -/

/-- R176: OK is the verdict exactly when no step of the check fails. -/
theorem verdict_eq_ok_iff (p : Params) (f : List Byte) (k : Kind) :
    verdict p f k = .ok ↔ 3 ≤ f.length ∧ crcOk f = true ∧
      (k = .gen2 → p.gen2Min.val ≤ payloadLen f) ∧ (k = .r6 → p.r6Min.val ≤ payloadLen f) := by
  unfold verdict
  split
  case isTrue hshort => simp; omega
  case isFalse hlen =>
    split
    case isTrue hcrc => simp [hcrc]
    case isFalse hcrc =>
      have hcrc' : crcOk f = true := by simpa using hcrc
      cases k <;> simp [hcrc'] <;> omega

/-- Settles O35: a frame of 123 or 195 bytes has a payload of 118 or 190 bytes, and with a correct CRC its schema
minimum alone decides. -/
theorem fullPresetResponsePassesItsMinimum : Obligations.FullPresetResponsePassesItsMinimum := by
  intro p f hcrc
  refine ⟨fun hlen => ?_, fun hlen => ?_⟩
  · have hpay : payloadLen f = 118 := by simp [payloadLen, hlen]
    simp [verdict_eq_ok_iff, hlen, hcrc, hpay]
  · have hpay : payloadLen f = 190 := by simp [payloadLen, hlen]
    simp [verdict_eq_ok_iff, hlen, hcrc, hpay]

end Sys2Proof.Machine

namespace Sys2Proof.Machine

/-! ### The fields of STATUS (10_state.md R29) -/

/-- Address 0x001 of the map R61 is STATUS. -/
theorem readReg_status (s : State) : readReg 0x001 s = statusWord s := rfl

theorem getLsbD_flagWord_shiftLeft (b : Bool) (i n : Nat) (hn : n < 16) :
    (flagWord b <<< n).getLsbD i = (decide (i = n) && b) := by
  have hbit : (flagWord b).getLsbD (i - n) = (decide (i - n = 0) && b) := by
    cases b <;> simp [flagWord, BitVec.getLsbD_one]
  rw [BitVec.getLsbD_shiftLeft, hbit]
  grind

/-- R29's table, bit by bit: no field is wider than the gap to the next one, so the `|||` of the shifted fields
reads at every bit the one field that covers it. -/
theorem getLsbD_statusWord (s : State) (i : Nat) :
    (statusWord s).getLsbD i =
      if i < 2 then s.state.code.getLsbD i
      else if i = 2 then s.marker
      else if i = 3 then irq s
      else if i < 7 then s.kind.code.getLsbD (i - 4)
      else if i < 8 then false
      else if i < 12 then s.result.code.getLsbD (i - 8)
      else false := by
  have hstate : ¬ i < 2 → s.state.code.getLsbD i = false :=
    fun h => BitVec.getLsbD_of_ge _ _ (by omega)
  have hkind : ¬ i < 7 → s.kind.code.getLsbD (i - 4) = false :=
    fun h => BitVec.getLsbD_of_ge _ _ (by omega)
  have hresult : ¬ i < 12 → s.result.code.getLsbD (i - 8) = false :=
    fun h => BitVec.getLsbD_of_ge _ _ (by omega)
  have hmarker := getLsbD_flagWord_shiftLeft s.marker i 2 (by decide)
  have hirq := getLsbD_flagWord_shiftLeft (irq s) i 3 (by decide)
  simp only [statusWord, BitVec.getLsbD_or, hmarker, hirq, BitVec.getLsbD_shiftLeft, BitVec.getLsbD_setWidth]
  grind

/-- A range of STATUS is the field whose bits R29's table gives there. -/
theorem extractLsb'_statusWord_eq {start len : Nat} (s : State) (field : BitVec len)
    (h : ∀ i < len, (statusWord s).getLsbD (start + i) = field.getLsbD i) :
    (statusWord s).extractLsb' start len = field :=
  BitVec.eq_of_getLsbD_eq fun i hi => by rw [BitVec.getLsbD_extractLsb', h i hi, decide_eq_true hi, Bool.true_and]

theorem extractLsb'_statusWord_state (s : State) : (statusWord s).extractLsb' 0 2 = s.state.code :=
  extractLsb'_statusWord_eq s _ fun i hi => by rw [getLsbD_statusWord]; grind

theorem extractLsb'_statusWord_kind (s : State) : (statusWord s).extractLsb' 4 3 = s.kind.code :=
  extractLsb'_statusWord_eq s _ fun i hi => by rw [getLsbD_statusWord]; grind

theorem extractLsb'_statusWord_result (s : State) : (statusWord s).extractLsb' 8 4 = s.result.code :=
  extractLsb'_statusWord_eq s _ fun i hi => by rw [getLsbD_statusWord]; grind

theorem extractLsb'_statusWord_reserved (s : State) : (statusWord s).extractLsb' 12 4 = 0 :=
  extractLsb'_statusWord_eq s _ fun i hi => by rw [getLsbD_statusWord]; grind

/-- Settles O52: each range of STATUS is the code of its field, so a field's value fixes the number read there; the
Write is one to an address that is not writable. -/
theorem statusWordFields : Obligations.StatusWordFields := by
  intro s
  simp only [readReg_status, extractLsb'_statusWord_state, extractLsb'_statusWord_kind,
    extractLsb'_statusWord_result]
  exact ⟨congrArg RxState.code, congrArg RxState.code, congrArg RxState.code,
    getLsbD_statusWord s 2, getLsbD_statusWord s 3,
    congrArg Kind.code, congrArg Kind.code, congrArg Kind.code, congrArg Kind.code, congrArg Kind.code,
    getLsbD_statusWord s 7,
    congrArg Result.code, congrArg Result.code, congrArg Result.code, congrArg Result.code, congrArg Result.code,
    congrArg Result.code, congrArg Result.code, congrArg Result.code, congrArg Result.code,
    extractLsb'_statusWord_reserved s, fun d => exec_wrOther_of_not_writable 0x001 d s rfl⟩

end Sys2Proof.Machine

namespace Sys2Proof.Machine

/-! ### Runs of bus transactions (20_memory.md R63) -/

theorem execAll_cons_of_next (i : Instr) (is : List Instr) (s t : State) (h : exec i s = .next t) :
    execAll (i :: is) s = execAll is t := by
  simp only [execAll, h]

theorem exec_rd (a : Addr) (s : State) : exec (.rd a) s = .next { s with readData := some (readReg a s) } := rfl

/-- A Read returns what it returned before any run of Reads: the datum they leave behind feeds no register. -/
theorem execAll_reads_then_read (as : List Addr) (a : Addr) (s : State) :
    execAll (as.map .rd ++ [.rd a]) s = .next { s with readData := some (readReg a s) } := by
  induction as generalizing s with
  | nil => exact execAll_cons_of_next _ _ _ _ (exec_rd a s)
  | cons a₀ as ih =>
    rw [List.map_cons, List.cons_append, execAll_cons_of_next _ _ _ _ (exec_rd a₀ s), ih,
      readReg_readData a s]

/-- An instruction that keeps the state it leads to does the same done twice as done once. -/
theorem execAll_twice_of_fixed (i : Instr) (s t : State) (hs : exec i s = .next t) (ht : exec i t = .next t) :
    execAll [i, i] s = exec i s := by
  rw [execAll_cons_of_next _ _ _ _ hs, execAll_cons_of_next _ _ _ _ ht, hs, execAll]

theorem exec_push_raw_of_room (b : Byte) (s : State) (h : s.state = .armed) (hk : s.kind = .raw)
    (hroom : s.buf.length < 256) : exec (.push b) s = .next { s with buf := s.buf ++ [b] } := by
  rw [exec_push_raw b s h hk, pushRaw, if_neg hroom.ne]

/-- Not idempotent: each of two PUSHes of one byte to a RAW receive with room for both appends it. -/
theorem execAll_push_push_raw (b : Byte) (s : State) (h : s.state = .armed) (hk : s.kind = .raw)
    (hroom : s.buf.length < 255) :
    execAll [.push b, .push b] s = .next { s with buf := s.buf ++ [b, b] } := by
  have hsecond : (s.buf ++ [b]).length < 256 := by rw [List.length_append, List.length_singleton]; omega
  rw [execAll_cons_of_next _ _ _ _ (exec_push_raw_of_room b s h hk (by omega)),
    execAll_cons_of_next _ _ _ _ (exec_push_raw_of_room b { s with buf := s.buf ++ [b] } h hk hsecond), execAll,
    List.append_assoc, List.singleton_append]

/-- Settles O47: the Reads by induction on their list; an operand Write keeps the state it leads to; the second PUSH
finds room because the first took one byte. -/
theorem readsHaveNoSideEffects : Obligations.ReadsHaveNoSideEffects :=
  ⟨execAll_reads_then_read,
    fun d s => ⟨execAll_twice_of_fixed (.wrStart d) s _ rfl rfl, execAll_twice_of_fixed (.wrCount d) s _ rfl rfl,
      execAll_twice_of_fixed (.wrCfg d) s _ rfl rfl⟩,
    execAll_push_push_raw, exec_wrOther_of_not_writable⟩

end Sys2Proof.Machine

namespace Sys2Proof

/-! ### The decoder's lines in numbers (30_encoding.md R81, R87) -/

theorem belowOp_eq_zero_iff_toNat (w : Word) : belowOp w = 0 ↔ w.toNat % 4096 = 0 := by
  rw [BitVec.toNat_eq, toNat_belowOp]; rfl

theorem subField_eq_zero_iff_toNat (w : Word) : subField w = 0 ↔ w.toNat / 256 % 16 = 0 := by
  rw [BitVec.toNat_eq, toNat_subField]; rfl

theorem immField_eq_zero_iff_toNat (w : Word) : immField w = 0 ↔ w.toNat % 256 = 0 := by
  rw [BitVec.toNat_eq, toNat_immField]; rfl

theorem immField_eq_ofNat (w : Word) : immField w = BitVec.ofNat 8 (w.toNat % 256) := by
  rw [← toNat_immField, BitVec.ofNat_toNat, BitVec.setWidth_eq]

theorem decodeFixed_eq (w : Word) (i : Instr) :
    decodeFixed w i = if w.toNat % 4096 = 0 then .ok i else .error .operandBits := by
  simp only [decodeFixed, belowOp_eq_zero_iff_toNat]

theorem decodeByte_eq (w : Word) (mk : Byte → Instr) :
    decodeByte w mk =
      if w.toNat / 256 % 16 = 0 then .ok (mk (BitVec.ofNat 8 (w.toNat % 256))) else .error .subNotZero := by
  simp only [decodeByte, subField_eq_zero_iff_toNat, immField_eq_ofNat]

theorem decodeBuild_eq (w : Word) :
    decodeBuild w =
      if w.toNat % 256 = 0 ∧ w.toNat / 256 % 16 = 0 then .ok .build
      else if w.toNat % 256 = 0 ∧ w.toNat / 256 % 16 = 1 then .ok .buildDi
      else if w.toNat % 256 = 0 ∧ w.toNat / 256 % 16 = 2 then .ok .buildG2
      else if w.toNat % 256 = 0 ∧ w.toNat / 256 % 16 = 3 then .ok .buildR6
      else .error .buildField := by
  simp only [decodeBuild, immField_eq_zero_iff_toNat, toNat_subField]
  by_cases himm : w.toNat % 256 = 0
  case neg => simp [himm]
  case pos =>
    rw [if_pos himm]
    split
    case h_5 h0 h1 h2 h3 => rw [if_neg (h0 ·.2), if_neg (h1 ·.2), if_neg (h2 ·.2), if_neg (h3 ·.2)]
    all_goals simp [*]

theorem decodeAbort_eq (w : Word) :
    decodeAbort w =
      if w.toNat % 256 = 0 ∧ w.toNat / 256 % 16 = 0 then .ok .abortTo
      else if w.toNat % 256 = 0 ∧ w.toNat / 256 % 16 = 1 then .ok .abortCan
      else .error .abortField := by
  simp only [decodeAbort, immField_eq_zero_iff_toNat, toNat_subField]
  by_cases himm : w.toNat % 256 = 0
  case neg => simp [himm]
  case pos =>
    rw [if_pos himm]
    split
    case h_3 h0 h1 => rw [if_neg (h0 ·.2), if_neg (h1 ·.2)]
    all_goals simp [*]

theorem decodeCommand_of_unassigned (w : Word) (h : 0xB ≤ w.toNat / 4096) :
    decodeCommand w = .error .unassignedOp := by
  rw [← toNat_opField] at h
  unfold decodeCommand
  split
  case h_12 => rfl
  all_goals omega

/-- Settles O2: `OP` selects the line of the decoder, and each line reads its fields as quotients and remainders. -/
theorem decoderFollowsItsPseudocode : Obligations.DecoderFollowsItsPseudocode := by
  intro w op sub imm low
  have hop : (opField w).toNat = op := toNat_opField w
  refine ⟨fun h => ?_, fun h => ?_, fun h => ?_, fun h => ?_, fun h => ?_, fun h => ?_, fun h => ?_,
    fun h => ?_, fun h => ?_, fun h => ?_, fun h => ?_, decodeCommand_of_unassigned w⟩
  all_goals simp only [decodeCommand, hop, h]
  · exact decodeFixed_eq w .nop
  · exact decodeFixed_eq w .reset
  · exact decodeFixed_eq w .crcInit
  · exact decodeByte_eq w .crcFeed
  · exact decodeBuild_eq w
  · exact decodeFixed_eq w .recvRaw
  · exact decodeByte_eq w .push
  · exact decodeFixed_eq w .finish
  · exact decodeAbort_eq w
  · exact decodeFixed_eq w .ack
  · exact decodeByte_eq w .clrErr

/-! ### Strict decoding (30_encoding.md R84) -/

theorem exists_decodeFixed_eq_ok_iff (w : Word) (i : Instr) :
    (∃ j, decodeFixed w i = .ok j) ↔ w.toNat % 4096 = 0 := by
  rw [decodeFixed_eq]; split <;> simp [*]

theorem exists_decodeByte_eq_ok_iff (w : Word) (mk : Byte → Instr) :
    (∃ j, decodeByte w mk = .ok j) ↔ w.toNat / 256 % 16 = 0 := by
  rw [decodeByte_eq]; split <;> simp [*]

theorem exists_decodeBuild_eq_ok_iff (w : Word) :
    (∃ j, decodeBuild w = .ok j) ↔ w.toNat % 256 = 0 ∧ w.toNat / 256 % 16 < 4 := by
  rw [decodeBuild_eq]; split_ifs <;> simp <;> omega

theorem exists_decodeAbort_eq_ok_iff (w : Word) :
    (∃ j, decodeAbort w = .ok j) ↔ w.toNat % 256 = 0 ∧ w.toNat / 256 % 16 < 2 := by
  rw [decodeAbort_eq]; split_ifs <;> simp <;> omega

/-- Each line of the decoder answers a command on just those words of its `OP` that a row of R83 covers. -/
theorem exists_decodeCommand_eq_ok_iff (w : Word) :
    (∃ i, decodeCommand w = .ok i) ↔ isCommandWord w = true := by
  have hop := toNat_opField w
  rw [isCommandWord_iff]
  unfold decodeCommand
  split
  case h_12 =>
    simp only [imp_false] at *
    simp only [reduceCtorEq, exists_false, false_iff]
    omega
  all_goals
    simp only [exists_decodeFixed_eq_ok_iff, exists_decodeByte_eq_ok_iff, exists_decodeBuild_eq_ok_iff,
      exists_decodeAbort_eq_ok_iff]
    omega

theorem decodeCommand_error_of_not_command (w : Word) (h : isCommandWord w = false) :
    ∃ e, decodeCommand w = .error e := by
  cases hd : decodeCommand w with
  | ok i => simp [(exists_decodeCommand_eq_ok_iff w).mp ⟨i, hd⟩] at h
  | error e => exact ⟨e, rfl⟩

/-- The words no row of R83 covers are the classes (a) to (e) of R84. -/
theorem isCommandWord_eq_false_iff (w : Word) : isCommandWord w = false ↔
    0xB ≤ w.toNat / 4096 ∨
    ((w.toNat / 4096 = 0x0 ∨ w.toNat / 4096 = 0x1 ∨ w.toNat / 4096 = 0x2 ∨ w.toNat / 4096 = 0x5 ∨
      w.toNat / 4096 = 0x7 ∨ w.toNat / 4096 = 0x9) ∧ w.toNat % 4096 ≠ 0) ∨
    ((w.toNat / 4096 = 0x3 ∨ w.toNat / 4096 = 0x6 ∨ w.toNat / 4096 = 0xA) ∧ w.toNat / 256 % 16 ≠ 0) ∨
    (w.toNat / 4096 = 0x4 ∧ (4 ≤ w.toNat / 256 % 16 ∨ w.toNat % 256 ≠ 0)) ∨
    (w.toNat / 4096 = 0x8 ∧ (2 ≤ w.toNat / 256 % 16 ∨ w.toNat % 256 ≠ 0)) := by
  rw [← Bool.not_eq_true, isCommandWord_iff]
  omega

/-- Settles O3: the decoder's commands are the covered words, and an illegal word raises ILLEGAL_CMD alone. -/
theorem decodingIsStrict : Obligations.DecodingIsStrict := by
  refine fun w => ⟨exists_decodeCommand_eq_ok_iff w, isCommandWord_eq_false_iff w, fun h s => ?_⟩
  obtain ⟨e, he⟩ := decodeCommand_error_of_not_command w h
  exact Machine.exec_wrCmd_of_error w e s he

/-! ### Pseudo-instructions (30_encoding.md R90) -/

/-- A line that expands to one transaction for each byte is those bytes' one-transaction lines in order. -/
theorem map_encode_eq_flatMap_expand (mk : Byte → Instr) (bs : List Byte) :
    (bs.map fun b => encode (mk b)) = bs.flatMap fun b => (AsmLine.mnemonic (mk b)).expand :=
  (List.flatMap_pure_eq_map _ bs).symm

/-- Settles O7: PUSHS and CRC.FEEDS byte by byte; REQ and CLR.ERR.ALL are their written-out lists, with the
addresses R61 gives START and COUNT. -/
theorem pseudoInstructionsExpand : Obligations.PseudoInstructionsExpand :=
  ⟨map_encode_eq_flatMap_expand .push, map_encode_eq_flatMap_expand .crcFeed, fun _ _ => rfl, rfl⟩

end Sys2Proof

namespace Sys2Proof.Machine

/-! ### Frames with their CRC appended (40_crc.md R104) -/

/-- R103 and R104: a frame whose last two bytes are the CRC of the others, low byte first, is accepted. -/
theorem crcOk_append_crc (bs : List Byte) :
    crcOk (bs ++ [(crc16 bs).setWidth 8, (crc16 bs >>> 8).setWidth 8]) = true := by
  rw [crcOk_append_two, wordOfBytes_of_word, decide_eq_true rfl]

theorem crcOk_append_two_eq_false_iff (bs : List Byte) (a b : Byte) :
    crcOk (bs ++ [a, b]) = false ↔ crc16 bs ≠ wordOfBytes a b := by
  rw [crcOk_append_two, decide_eq_false_iff_not]

/-- An accepted frame with one byte replaced by another is rejected. A byte the CRC covers changes the CRC computed,
because every fold is injective; one of the last two bytes changes the CRC received. -/
theorem crcOk_set_eq_false (bs : List Byte) (a b x : Byte) (j : Nat) (hok : crcOk (bs ++ [a, b]) = true)
    (hj : j < bs.length + 2) (hx : x ≠ (bs ++ [a, b]).getD j 0) : crcOk ((bs ++ [a, b]).set j x) = false := by
  rw [crcOk_append_two, decide_eq_true_iff] at hok
  rcases (by omega : j < bs.length ∨ j = bs.length ∨ j = bs.length + 1) with hcovered | rfl | rfl
  · rw [List.getD_append _ _ _ _ hcovered] at hx
    rw [List.set_append_left _ _ hcovered, crcOk_append_two_eq_false_iff, ← hok]
    exact foldl_crcStep_set_ne bs j x hcovered hx _
  · have hset : (bs ++ [a, b]).set bs.length x = bs ++ [x, b] := by simp
    rw [hset, crcOk_append_two_eq_false_iff, hok]
    intro h
    exact hx (by simp [(wordOfBytes_injective h).1])
  · have hset : (bs ++ [a, b]).set (bs.length + 1) x = bs ++ [a, x] := by simp
    rw [hset, crcOk_append_two_eq_false_iff, hok]
    intro h
    exact hx (by simp [(wordOfBytes_injective h).2])

/-- Flipping a bit of a byte changes the byte. -/
theorem xor_one_shiftLeft_ne (b : Byte) (k : Nat) (hk : k < 8) : b ^^^ (1#8 <<< k) ≠ b := by
  intro h
  have hbit := congrArg (fun x => BitVec.getLsbD x k) h
  simp [hk] at hbit

/-- Settles O14: R104's formula is the definition's; a flipped bit replaces one byte of an accepted frame by
another. -/
theorem crcOkAcceptsExactlyAndDetectsOneBit : Obligations.CrcOkAcceptsExactlyAndDetectsOneBit := by
  refine ⟨fun f _ => decide_eq_true_iff, crcOk_append_crc, fun bs j k => ?_⟩
  intro f hj hk
  exact crcOk_set_eq_false bs _ _ _ j (crcOk_append_crc bs) (by simpa [f] using hj)
    (xor_one_shiftLeft_ne _ k hk)

/-! ### The words of the CRC engine (40_crc.md R105, R106) -/

/-- R84: a word that no row of the opcode map covers raises ILLEGAL_CMD and does nothing else. -/
theorem exec_wrCmd_of_not_command (w : Word) (s : State) (h : isCommandWord w = false) :
    exec (.wrCmd w) s = .next (raise .illegalCmd s) := by
  obtain ⟨e, he⟩ := decodeCommand_error_of_not_command w h
  exact exec_wrCmd_of_error w e s he

theorem toNat_op_append (op : BitVec 4) (x : BitVec 12) :
    (op ++ x : Word).toNat = op.toNat * 4096 + x.toNat := by
  rw [BitVec.toNat_append, ← Nat.shiftLeft_add_eq_or_of_lt x.isLt, Nat.shiftLeft_eq]

/-- R105: a word 0x2xxx with a bit set below `OP` is no command. -/
theorem isCommandWord_crcInit_operandBits (x : BitVec 12) (h : x ≠ 0) :
    isCommandWord (0x2#4 ++ x) = false := by
  have hx : x.toNat ≠ 0 := BitVec.toNat_ne.mp h
  have hlt := x.isLt
  have hop : (0x2#4).toNat = 2 := rfl
  rw [isCommandWord_eq_false_iff, toNat_op_append]
  omega

/-- R106: a word 0x3xxx with `SUB` not 0 is no command. -/
theorem isCommandWord_crcFeed_sub (sub : BitVec 4) (b : Byte) (h : sub ≠ 0) :
    isCommandWord (commandWord 0x3 sub b) = false := by
  have hsub : sub.toNat ≠ 0 := BitVec.toNat_ne.mp h
  have hlt := sub.isLt
  have hb := b.isLt
  have hop : (0x3 : BitVec 4).toNat = 3 := rfl
  rw [isCommandWord_eq_false_iff, toNat_commandWord]
  omega

theorem decodeCommand_crcFeed (b : Byte) : decodeCommand (commandWord 0x3 0x0 b) = .ok (.crcFeed b) := by
  simp [decodeCommand, decodeByte]

/-- Settles O16: the word and the effect are the model's own lines, and the other words of `OP` 2 are no commands. -/
theorem crcInitSetsOnlyCrc : Obligations.CrcInitSetsOnlyCrc :=
  ⟨rfl, fun _ => rfl, fun x s hx => exec_wrCmd_of_not_command _ s (isCommandWord_crcInit_operandBits x hx)⟩

/-- Settles O17: the chain of register values is the iterates of the shift. -/
theorem crcFeedFoldsOneByte : Obligations.CrcFeedFoldsOneByte := by
  intro b s
  exact ⟨fun n => Nat.repeat crcShift n (s.crc ^^^ zextByte b), rfl, fun _ _ => rfl, decodeCommand_crcFeed b, rfl,
    fun sub hsub => exec_wrCmd_of_not_command _ s (isCommandWord_crcFeed_sub sub b hsub)⟩

end Sys2Proof.Machine

namespace Sys2Proof.Machine

/-! ### Operations that neither read nor write CRC (40_crc.md R108) -/

/-- The state with another value of CRC. -/
def setCrc (c : Word) (s : State) : State := { s with crc := c }

theorem setCrc_crc (c : Word) (s : State) : (setCrc c s).crc = c := rfl

/-- R108: the operation answers one next state, and another value of CRC passes through it unread and unchanged. -/
def IgnoresCrc (f : State → Host.Outcome State Fault Refusal) : Prop :=
  ∃ g : State → State, (∀ s, f s = .next (g s)) ∧ ∀ c s, g (setCrc c s) = setCrc c (g s)

/-- An operation through which every value of CRC passes keeps the value it finds. -/
theorem IgnoresCrc.frame {f : State → Host.Outcome State Fault Refusal} (hf : IgnoresCrc f) {s t : State}
    (ht : f s = .next t) (c : Word) : t.crc = s.crc ∧ f { s with crc := c } = .next { t with crc := c } := by
  obtain ⟨g, hfg, hg⟩ := hf
  obtain rfl : g s = t := Host.Outcome.next.inj ((hfg s).symm.trans ht)
  have hown : g s = setCrc s.crc (g s) := hg s.crc s
  exact ⟨(congrArg State.crc hown).trans (setCrc_crc _ _), (hfg _).trans (congrArg _ (hg c s))⟩

theorem buildRequest_setCrc (k : Kind) (r : Request) (c : Word) (s : State) :
    buildRequest k r (setCrc c s) = setCrc c (buildRequest k r s) := by
  simp only [buildRequest, apply_ite (setCrc c)]
  rfl

theorem abortWith_setCrc (r : Result) (c : Word) (s : State) :
    abortWith r (setCrc c s) = setCrc c (abortWith r s) := by
  simp only [abortWith, apply_ite (setCrc c)]
  rfl

theorem pushRaw_setCrc (b : Byte) (c : Word) (s : State) :
    pushRaw b (setCrc c s) = setCrc c (pushRaw b s) := by
  simp only [pushRaw, apply_ite (setCrc c)]
  rfl

theorem noteMarker_setCrc (b : Byte) (c : Word) (s : State) :
    noteMarker b (setCrc c s) = setCrc c (noteMarker b s) := by
  simp only [noteMarker, apply_ite (setCrc c)]
  rfl

theorem appendFramed_setCrc (b : Byte) (c : Word) (s : State) :
    appendFramed b (setCrc c s) = setCrc c (appendFramed b s) := by
  simp only [appendFramed, apply_ite (setCrc c)]
  rfl

theorem ignoresCrc_build (k : Kind) (r : State → Request) (hr : ∀ c s, r (setCrc c s) = r s) :
    IgnoresCrc fun s => .next (buildRequest k (r s) s) :=
  ⟨_, fun _ => rfl, fun c s => by rw [hr, buildRequest_setCrc]⟩

theorem ignoresCrc_abort (r : Result) : IgnoresCrc fun s => .next (abortWith r s) :=
  ⟨_, fun _ => rfl, abortWith_setCrc r⟩

theorem ignoresCrc_raise (e : CmdError) : IgnoresCrc fun s => .next (raise e s) :=
  ⟨_, fun _ => rfl, fun _ _ => rfl⟩

/-- An operation that acts in one way while the receiver is in a state and in another way otherwise. -/
theorem ignoresCrc_ite (x : RxState) (f g : State → State) (hf : ∀ c s, f (setCrc c s) = setCrc c (f s))
    (hg : ∀ c s, g (setCrc c s) = setCrc c (g s)) :
    IgnoresCrc fun s => .next (if s.state = x then f s else g s) := by
  refine ⟨_, fun _ => rfl, fun c s => ?_⟩
  rw [hf, hg]
  exact (apply_ite (setCrc c) (s.state = x) (f s) (g s)).symm

theorem ignoresCrc_push (b : Byte) : IgnoresCrc (execPush b) := by
  refine ignoresCrc_ite .armed (fun s => if s.kind = .raw then pushRaw b s else appendFramed b (noteMarker b s))
    (raise .notArmed) (fun c s => ?_) fun _ _ => rfl
  simp only [pushRaw_setCrc, noteMarker_setCrc, appendFramed_setCrc]
  exact (apply_ite (setCrc c) (s.kind = .raw) _ _).symm

/-- The commands beside CRC.INIT, CRC.FEED and RESET ignore CRC. -/
theorem ignoresCrc_command (i : Instr) (hcmd : i.isCommand = true) (hinit : i ≠ .crcInit)
    (hfeed : ∀ b, i ≠ .crcFeed b) (hreset : i ≠ .reset) : IgnoresCrc (exec i) := by
  cases i with
  | nop => exact ⟨id, fun _ => rfl, fun _ _ => rfl⟩
  | reset => exact absurd rfl hreset
  | crcInit => exact absurd rfl hinit
  | crcFeed b => exact absurd rfl (hfeed b)
  | build => exact ignoresCrc_build .custom customRequest fun _ _ => rfl
  | buildDi => exact ignoresCrc_build .devinfo (fun _ => presetDeviceInfo) fun _ _ => rfl
  | buildG2 => exact ignoresCrc_build .gen2 (fun _ => presetGen2) fun _ _ => rfl
  | buildR6 => exact ignoresCrc_build .r6 (fun _ => presetR6) fun _ _ => rfl
  | recvRaw => exact ignoresCrc_ite .armed (raise .busy) _ (fun _ _ => rfl) fun _ _ => rfl
  | push b => exact ignoresCrc_push b
  | finish => exact ignoresCrc_ite .armed complete (raise .notArmed) (fun _ _ => rfl) fun _ _ => rfl
  | abortTo => exact ignoresCrc_abort .timedOut
  | abortCan => exact ignoresCrc_abort .cancelled
  | ack => exact ignoresCrc_ite .done _ id (fun _ _ => rfl) fun _ _ => rfl
  | clrErr m => exact ⟨_, fun _ => rfl, fun _ _ => rfl⟩
  | wrStart | wrCount | wrCfg | wrCmd | wrOther | rd | hwreset => cases hcmd

theorem canonical_wrCmd_of_ok {w : Word} {i : Instr} (h : decodeCommand w = .ok i) :
    (Instr.wrCmd w).canonical = i := by
  simp only [Instr.canonical, encode, decodeTxn, if_true, h]

/-- A Write to CMD ignores CRC when the command it carries, if any, is one that does. -/
theorem ignoresCrc_wrCmd (w : Word) (hinit : (Instr.wrCmd w).canonical ≠ .crcInit)
    (hfeed : ∀ b, (Instr.wrCmd w).canonical ≠ .crcFeed b) (hreset : (Instr.wrCmd w).canonical ≠ .reset) :
    IgnoresCrc (exec (.wrCmd w)) := by
  cases hw : decodeCommand w with
  | ok i =>
    have hcmd := decodeCommand_isCommand w i hw
    rw [canonical_wrCmd_of_ok hw] at hinit hfeed hreset
    have hexec : exec (.wrCmd w) = exec i :=
      funext fun s => (exec_wrCmd_of_ok w i s hw).trans (executeCommand_eq_exec i s hcmd)
    rw [hexec]
    exact ignoresCrc_command i hcmd hinit hfeed hreset
  | error e =>
    have hexec : exec (.wrCmd w) = fun s => .next (raise .illegalCmd s) :=
      funext fun s => exec_wrCmd_of_error w e s hw
    rw [hexec]
    exact ignoresCrc_raise .illegalCmd

/-- A Write that is no command ignores CRC: a register write, or BAD_ADDR. -/
theorem ignoresCrc_wrOther (a : Addr) (d : Word) (h : a ≠ 0x000) : IgnoresCrc (exec (.wrOther a d)) := by
  have hcases : a = 0x003 ∨ a = 0x004 ∨ a = 0x005 ∨ isWritable a = false := by
    simp only [isWritable, Bool.or_eq_false_iff, beq_eq_false_iff_ne]
    tauto
  rcases hcases with rfl | rfl | rfl | hbad
  · exact ⟨_, fun _ => rfl, fun _ _ => rfl⟩
  · exact ⟨_, fun _ => rfl, fun _ _ => rfl⟩
  · exact ⟨_, fun _ => rfl, fun _ _ => rfl⟩
  · have hexec : exec (.wrOther a d) = fun s => .next (raise .badAddr s) :=
      funext fun s => exec_wrOther_of_not_writable a d s hbad
    rw [hexec]
    exact ignoresCrc_raise .badAddr

theorem canonical_crcFeed (b : Byte) : (Instr.crcFeed b).canonical = .crcFeed b :=
  canonical_wrCmd_of_ok (decodeCommand_crcFeed b)

/-- R108: whatever is in effect none of CRC.INIT, CRC.FEED, the resets and Read ignores CRC. -/
theorem ignoresCrc_of_canonical (i : Instr) (hinit : i.canonical ≠ .crcInit)
    (hfeed : ∀ b, i.canonical ≠ .crcFeed b) (hreset : ¬ IsReset i.canonical) (hread : ∀ a, i ≠ .rd a) :
    IgnoresCrc (exec i) := by
  have hcommand (hcmd : i.isCommand = true) : IgnoresCrc (exec i) := by
    refine ignoresCrc_command i hcmd ?_ ?_ ?_
    · rintro rfl; exact hinit rfl
    · rintro b rfl; exact hfeed b (canonical_crcFeed b)
    · rintro rfl; exact hreset (.inl rfl)
  cases i with
  | wrStart d => exact ⟨_, fun _ => rfl, fun _ _ => rfl⟩
  | wrCount d => exact ⟨_, fun _ => rfl, fun _ _ => rfl⟩
  | wrCfg d => exact ⟨_, fun _ => rfl, fun _ _ => rfl⟩
  | wrCmd w => exact ignoresCrc_wrCmd w hinit hfeed fun h => hreset (.inl h)
  | wrOther a d =>
    by_cases ha : a = 0x000
    · subst ha
      exact ignoresCrc_wrCmd d hinit hfeed fun h => hreset (.inl h)
    · exact ignoresCrc_wrOther a d ha
  | rd a => exact absurd rfl (hread a)
  | hwreset => exact absurd (.inr rfl) hreset
  | _ => exact hcommand rfl

/-- Settles O19: the CRC engine's commands by their definition, every other instruction because it ignores CRC. -/
theorem crcEngineIsIndependent : Obligations.CrcEngineIsIndependent :=
  ⟨fun _ => ⟨_, rfl⟩, fun _ _ => ⟨_, rfl⟩, fun i _ _ c hinit hfeed hreset hread ht =>
    (ignoresCrc_of_canonical i hinit hfeed hreset hread).frame ht c⟩

end Sys2Proof.Machine

namespace Sys2Proof.Machine

/-! ### The build procedure, case by case (41_request.md R120 to R122) -/

theorem raise_busy (s : State) : raise .busy s = { s with err := s.err ||| 0b0010 } := rfl

/-- R121: BUSY comes first, whatever the request. -/
theorem buildRequest_of_armed (k : Kind) (r : Request) (s : State) (h : s.state = .armed) :
    buildRequest k r s = raise .busy s := by
  simp only [buildRequest, if_pos h]

theorem buildRequest_of_legal (k : Kind) (r : Request) (s : State) (h : s.state ≠ .armed)
    (hr : countLegal r.count = true) :
    buildRequest k r s = { s with
      kind := k, marker := false, buf := [], txbuf := requestBuf r, txlen := 8,
      explen := expectedLength r, result := .none, state := .armed } := by
  simp only [buildRequest, if_neg h, if_pos hr]

/-- R122: a request with an illegal count is over at once. -/
theorem buildRequest_of_illegal (k : Kind) (r : Request) (s : State) (h : s.state ≠ .armed)
    (hr : ¬ countLegal r.count = true) :
    buildRequest k r s = { s with
      kind := k, marker := false, buf := [], txlen := 0, explen := 0, result := .invalidRequest,
      state := .done } := by
  simp only [buildRequest, if_neg h, if_neg hr]

/-- R123 with the bytes taken by shift and truncation. -/
theorem requestBuf_eq_setWidth (r : Request) :
    let c := crc16 [0x01, 0x03, (r.start >>> 8).setWidth 8, r.start.setWidth 8,
      (r.count >>> 8).setWidth 8, r.count.setWidth 8]
    requestBuf r = ⟨0x01, 0x03, (r.start >>> 8).setWidth 8, r.start.setWidth 8,
      (r.count >>> 8).setWidth 8, r.count.setWidth 8, c.setWidth 8, (c >>> 8).setWidth 8⟩ := by
  simp only [requestBuf, requestBody, loByte_eq_setWidth, hiByte_eq_setWidth]

/-! ### BUILD (R125) -/

theorem exec_build (s : State) : exec .build s = .next (buildRequest .custom ⟨s.start, s.count⟩ s) := rfl

/-- R176: the schema check, the only source of INSUFFICIENT_DATA, is for the two realtime kinds. -/
theorem kind_of_verdict_insufficientData {p : Params} {f : List Byte} {k : Kind}
    (h : verdict p f k = .insufficientData) : k = .gen2 ∨ k = .r6 := by
  unfold verdict at h
  split_ifs at h with _ _ hgen2 hr6
  · exact .inl hgen2.1
  · exact .inr hr6.1

/-- Settles O20: the three cases of the build procedure at the request of START and COUNT. -/
theorem buildCustomRequest : Obligations.BuildCustomRequest := by
  refine ⟨rfl, fun p f h => ?_, fun s => ⟨fun harmed => ?_, fun h hcount => ?_, fun h hmin hmax => ?_⟩⟩
  · exact absurd (kind_of_verdict_insufficientData h) (by decide)
  · rw [exec_build, buildRequest_of_armed _ _ _ harmed, raise_busy]
  · have hillegal : ¬ countLegal s.count = true := by
      rw [countLegal_iff]
      omega
    rw [exec_build, buildRequest_of_illegal _ _ _ h hillegal]
  · have hlegal : countLegal s.count = true := (countLegal_iff _).2 ⟨hmin, hmax⟩
    rw [exec_build, buildRequest_of_legal _ _ _ h hlegal, requestBuf_eq_setWidth, expectedLength]

/-! ### The preset requests (R126 to R129) -/

theorem exec_buildDi (s : State) : exec .buildDi s = .next (buildRequest .devinfo presetDeviceInfo s) := rfl

theorem exec_buildG2 (s : State) : exec .buildG2 s = .next (buildRequest .gen2 presetGen2 s) := rfl

theorem exec_buildR6 (s : State) : exec .buildR6 s = .next (buildRequest .r6 presetR6 s) := rfl

theorem requestBuf_presetDeviceInfo :
    requestBuf presetDeviceInfo = ⟨0x01, 0x03, 0x8F, 0x00, 0x00, 0x0D, 0xAE, 0xDB⟩ := by decide +kernel

theorem requestBuf_presetGen2 :
    requestBuf presetGen2 = ⟨0x01, 0x03, 0x01, 0x00, 0x00, 0x3B, 0x05, 0xE5⟩ := by decide +kernel

theorem requestBuf_presetR6 :
    requestBuf presetR6 = ⟨0x01, 0x03, 0x60, 0x04, 0x00, 0x5F, 0x5A, 0x33⟩ := by decide +kernel

theorem expectedLength_presetDeviceInfo : expectedLength presetDeviceInfo = 31 := by decide

theorem expectedLength_presetGen2 : expectedLength presetGen2 = 123 := by decide

theorem expectedLength_presetR6 : expectedLength presetR6 = 195 := by decide

/-- Settles O21: each preset has a legal count, so outside ARMED it is built. -/
theorem presetRequestsArm : Obligations.PresetRequestsArm := by
  obtain ⟨hdi, hg2, hr6⟩ := presets_are_legal
  refine ⟨rfl, rfl, rfl, fun s => ⟨fun h => ⟨?_, ?_, ?_⟩, fun harmed => ⟨?_, ?_, ?_⟩⟩⟩
  · rw [exec_buildDi, buildRequest_of_legal _ _ _ h hdi, requestBuf_presetDeviceInfo,
      expectedLength_presetDeviceInfo]
  · rw [exec_buildG2, buildRequest_of_legal _ _ _ h hg2, requestBuf_presetGen2, expectedLength_presetGen2]
  · rw [exec_buildR6, buildRequest_of_legal _ _ _ h hr6, requestBuf_presetR6, expectedLength_presetR6]
  · rw [exec_buildDi, buildRequest_of_armed _ _ _ harmed, raise_busy]
  · rw [exec_buildG2, buildRequest_of_armed _ _ _ harmed, raise_busy]
  · rw [exec_buildR6, buildRequest_of_armed _ _ _ harmed, raise_busy]

end Sys2Proof.Machine

namespace Sys2Proof.Machine

/-! ### Stray bytes (42_receive.md R154) -/

theorem raise_notArmed (s : State) : raise .notArmed s = { s with err := s.err ||| 0b0100 } := rfl

theorem exec_stray {i : Instr} (hi : i = .finish ∨ ∃ b, i = .push b) (s : State) (h : s.state ≠ .armed) :
    exec i s = .next (raise .notArmed s) := by
  rcases hi with rfl | ⟨b, rfl⟩
  · exact exec_finish_stray s h
  · exact exec_push_stray b s h

theorem execAll_of_fixed (is : List Instr) (t : State) (h : ∀ i ∈ is, exec i t = .next t) :
    execAll is t = .next t := by
  induction is with
  | nil => rfl
  | cons i is ih =>
    obtain ⟨hi, his⟩ := List.forall_mem_cons.1 h
    rw [execAll_cons_of_next i is t t hi, ih his]

/-- However many PUSHes and FINISHes arrive outside a receive, the first raises NOT_ARMED and the others find it
raised. -/
theorem execAll_stray (is : List Instr) (hne : is ≠ []) (his : ∀ i ∈ is, i = .finish ∨ ∃ b, i = .push b)
    (s : State) (h : s.state ≠ .armed) : execAll is s = .next (raise .notArmed s) := by
  cases is with
  | nil => exact absurd rfl hne
  | cons i is =>
    obtain ⟨hi, his⟩ := List.forall_mem_cons.1 his
    rw [execAll_cons_of_next i is s _ (exec_stray hi s h)]
    refine execAll_of_fixed is _ fun j hj => ?_
    rw [exec_stray (his j hj) (raise .notArmed s) h, raise_raise]

/-- Settles O28: each of the three is a non-empty run of PUSHes and FINISHes. -/
theorem strayBytesAreDiscarded : Obligations.StrayBytesAreDiscarded := by
  intro bs s h
  simp only [← raise_notArmed]
  refine ⟨fun hbs => execAll_stray _ ?_ ?_ s h, exec_finish_stray s h, execAll_stray _ ?_ ?_ s h⟩
  · exact mt List.map_eq_nil_iff.1 hbs
  · exact List.forall_mem_map.2 fun b _ => .inr ⟨b, rfl⟩
  · exact List.concat_ne_nil _ _
  · exact List.forall_mem_append.2
      ⟨List.forall_mem_map.2 fun b _ => .inr ⟨b, rfl⟩, List.forall_mem_singleton.2 (.inl rfl)⟩

/-! ### ABORT (42_receive.md R150 to R153) -/

theorem exec_abortTo (s : State) : exec .abortTo s = .next (abortWith .timedOut s) := rfl

theorem exec_abortCan (s : State) : exec .abortCan s = .next (abortWith .cancelled s) := rfl

/-- R150: an abort with a failure result ends the receive and clears what was received. -/
theorem abortWith_armed_failure (r : Result) (hr : r ≠ .ok) (s : State) (h : s.state = .armed) :
    abortWith r s = { s with result := r, state := .done, buf := [], marker := false } := by
  rw [abortWith_armed r s h, finishWith_failure r s hr]

/-- Settles O27: TIMED_OUT and CANCELLED are failure results, and an abort outside ARMED is the identity. -/
theorem abortEndsOnlyAReceive : Obligations.AbortEndsOnlyAReceive := by
  intro s
  refine ⟨fun harmed => ⟨?_, ?_⟩, fun h => ⟨?_, ?_⟩⟩
  · rw [exec_abortTo, abortWith_armed_failure .timedOut (by decide) s harmed]
  · rw [exec_abortCan, abortWith_armed_failure .cancelled (by decide) s harmed]
  · rw [exec_abortTo, abortWith_not_armed .timedOut s h]
  · rw [exec_abortCan, abortWith_not_armed .cancelled s h]

end Sys2Proof.Machine

namespace Sys2Proof.Machine

/-! ### The failing steps of the verdict (43_parse.md R176) -/

/-- R176: the structural check comes first, so it decides alone. -/
theorem verdict_of_short (p : Params) (f : List Byte) (k : Kind) (hshort : f.length < 3) :
    verdict p f k = .malformedFrame := if_pos hshort

/-- R176: the CRC check comes second, so the kind and the minima play no part in its failure. -/
theorem verdict_of_crc_wrong (p : Params) (f : List Byte) (k : Kind) (hlen : 3 ≤ f.length)
    (hcrc : crcOk f = false) : verdict p f k = .crcMismatch := by
  rw [verdict, if_neg (by omega), if_pos hcrc]

/-- R176: past the structural and the CRC check, the two schema checks have one answer, so their order does not
show. -/
theorem verdict_of_payload_short (p : Params) (f : List Byte) (k : Kind) (hlen : 3 ≤ f.length)
    (hcrc : crcOk f = true)
    (hpay : (k = .gen2 ∧ payloadLen f < p.gen2Min.val) ∨ (k = .r6 ∧ payloadLen f < p.r6Min.val)) :
    verdict p f k = .insufficientData := by
  rw [verdict, if_neg (by omega), if_neg (by simp [hcrc])]
  rcases hpay with hgen2 | hr6
  · rw [if_pos hgen2]
  · rw [if_pos hr6, ite_self]

/-- Settles O33: each failing step decides once those before it pass, and with none failing the verdict is OK. -/
theorem verdictChecksInOrder : Obligations.VerdictChecksInOrder := by
  intro p f k
  refine ⟨verdict_of_short p f k, verdict_of_crc_wrong p f k, verdict_of_payload_short p f k,
    fun hlen hcrc hpay => (verdict_eq_ok_iff p f k).2 ⟨hlen, hcrc, fun hk => ?_, fun hk => ?_⟩⟩
  · exact not_lt.1 fun hlow => hpay (.inl ⟨hk, hlow⟩)
  · exact not_lt.1 fun hlow => hpay (.inr ⟨hk, hlow⟩)

end Sys2Proof.Machine

namespace Sys2Proof.Machine

/-! ### A pending Write (44_control.md R195) -/

/-- The step takes the oldest pending transaction and runs what it decodes to (R68). -/
theorem step_of_pending (s : State) (x : HostTxn) (rest : List HostTxn) (h : s.pending = x :: rest) :
    step s = exec (decodeTxn x) { s with pending := rest } := by
  rw [step, takeTxn_cons s x rest h]

theorem decodeTxn_write_cmd_of_error (w : Word) (e : IllegalWord) (h : decodeCommand w = .error e) :
    decodeTxn (.write 0x000 w) = .wrCmd w := by
  simp only [decodeTxn, if_true, h]

theorem isWritable_eq_false_iff (a : Addr) :
    isWritable a = false ↔ a ≠ 0x000 ∧ a ≠ 0x003 ∧ a ≠ 0x004 ∧ a ≠ 0x005 := by
  simp only [isWritable, Bool.or_eq_false_iff, beq_eq_false_iff_ne, and_assoc]

theorem decodeTxn_write_of_not_writable (a : Addr) (d : Word) (h : isWritable a = false) :
    decodeTxn (.write a d) = .wrOther a d := by
  obtain ⟨hcmd, hstart, hcount, hcfg⟩ := (isWritable_eq_false_iff a).1 h
  rw [decodeTxn, if_neg hcmd, if_neg hstart, if_neg hcount, if_neg hcfg]

theorem exec_wrStart (d : Word) (s : State) : exec (.wrStart d) s = .next { s with start := d } := rfl

theorem exec_wrCount (d : Word) (s : State) : exec (.wrCount d) s = .next { s with count := d } := rfl

/-- R198: bits 1:0 of the datum, as a truncation. -/
theorem exec_wrCfg (d : Word) (s : State) : exec (.wrCfg d) s = .next { s with cfg := d.setWidth 2 } := by
  rw [BitVec.setWidth_eq_extractLsb' (by decide)]; rfl

/-- Settles O44: the address alone selects the instruction, and at CMD whether the word decodes; each then has its
own effect on the state without the Write. -/
theorem writeActsByItsAddress : Obligations.WriteActsByItsAddress := by
  intro a d s rest s' hpending
  rw [step_of_pending s _ rest hpending]
  refine ⟨?_, ?_, ?_, ?_, ?_, ?_⟩
  · rintro rfl i hi
    exact congrArg (exec · s') (canonical_wrCmd_of_ok hi)
  · rintro rfl e he
    rw [decodeTxn_write_cmd_of_error d e he]
    exact exec_wrCmd_of_error d e s' he
  · rintro rfl
    exact exec_wrStart d s'
  · rintro rfl
    exact exec_wrCount d s'
  · rintro rfl
    exact exec_wrCfg d s'
  · intro hcmd hstart hcount hcfg
    have hbad := (isWritable_eq_false_iff a).2 ⟨hcmd, hstart, hcount, hcfg⟩
    rw [decodeTxn_write_of_not_writable a d hbad]
    exact exec_wrOther_of_not_writable a d s' hbad

end Sys2Proof.Machine

namespace Sys2Proof.Machine

/-! ### The values of the register map (20_memory.md R61, 44_control.md R199) -/

theorem exec_rd_of_readReg_eq {a : Addr} {v : Word} {s : State} (h : readReg a s = v) :
    exec (.rd a) s = .next { s with readData := some v } := by
  rw [exec_rd, h]

/-- R40: RCRC is 0 without two bytes to take it from. -/
theorem rcrc_of_short (s : State) (h : (frame s).length < 2) : rcrc s = 0x0000 :=
  if_neg (by omega)

theorem rcrc_of_two_le (s : State) (h : 2 ≤ (frame s).length) :
    rcrc s = ((frame s).getD ((frame s).length - 2) 0).setWidth 16 |||
      ((frame s).getD ((frame s).length - 1) 0).setWidth 16 <<< 8 := if_pos h

/-- R44: the TXBUF window holds the eight request bytes in index order. -/
theorem readReg_txbuf (s : State) (k : Nat) (hk : k < 8) :
    readReg (0x010 + BitVec.ofNat 9 k) s = ((txBytes s.txbuf).getD k 0).setWidth 16 := by
  have haddr : (0x010 + BitVec.ofNat 9 k : Addr).toNat = 0x010 + k := by
    simp [BitVec.toNat_add]; omega
  rw [readReg_window _ s (by omega), haddr, readWindow, if_pos (by omega), Nat.add_sub_cancel_left, zextByte]

/-- R61: the reserved range reads 0. -/
theorem readReg_reserved (a : Addr) (s : State) (hlow : 0x018 ≤ a.toNat) (hhigh : a.toNat < 0x100) :
    readReg a s = 0x0000 := by
  rw [readReg_window a s (by omega), readWindow, if_neg (by omega), if_pos hhigh]

/-- R38: the FRAME window holds the frame view, and 0 past its end. -/
theorem readReg_frameWindow (s : State) (n : Nat) (hn : n < 256) :
    readReg (0x100 + BitVec.ofNat 9 n) s =
      if n < (frame s).length then ((frame s).getD n 0).setWidth 16 else 0x0000 := by
  have haddr : (0x100 + BitVec.ofNat 9 n : Addr).toNat = 0x100 + n := by
    simp [BitVec.toNat_add]; omega
  rw [readReg_window _ s (by omega), haddr, readWindow, if_neg (by omega), if_neg (by omega),
    Nat.add_sub_cancel_left, zextByte]
  split
  case isTrue => rfl
  case isFalse hpast => rw [List.getD_eq_default _ _ (by omega)]; rfl

/-- Settles O46: below 0x010 the map names a register or a view, whose definition is the value written out; RCRC
splits on two bytes, HDR joins its two, and above stand the two windows with the reserved range between. -/
theorem readReturnsTheMap : Obligations.ReadReturnsTheMap := by
  intro s f returns
  refine ⟨rfl, rfl, rfl, rfl, rfl, rfl, rfl, rfl, rfl, rfl, rfl,
    fun hlen => ?_, fun hlen => ?_, ?_, rfl, rfl, rfl, fun k hk => ?_, fun a hlow hhigh => ?_, fun n hn => ?_⟩
  · exact exec_rd_of_readReg_eq (rcrc_of_two_le s hlen)
  · exact exec_rd_of_readReg_eq (rcrc_of_short s hlen)
  · exact exec_rd_of_readReg_eq (append_eq_shift_or (f.getD 0 0) (f.getD 1 0))
  · exact exec_rd_of_readReg_eq (readReg_txbuf s k hk)
  · exact exec_rd_of_readReg_eq (readReg_reserved a s hlow hhigh)
  · exact exec_rd_of_readReg_eq (readReg_frameWindow s n hn)

end Sys2Proof.Machine

namespace Sys2Proof.Machine

/-! ### Words with a bit set where a command fixes 0 (30_encoding.md R84) -/

/-- R84 (b): a command that fixes every bit below `OP` has no second word. -/
theorem isCommandWord_operandBits (op : BitVec 4) (x : BitVec 12)
    (hop : op.toNat = 0x0 ∨ op.toNat = 0x1 ∨ op.toNat = 0x2 ∨ op.toNat = 0x5 ∨ op.toNat = 0x7 ∨ op.toNat = 0x9)
    (hx : x ≠ 0) :
    isCommandWord (op ++ x) = false := by
  have hx' : x.toNat ≠ 0 := BitVec.toNat_ne.mp hx
  have hlt := x.isLt
  rw [isCommandWord_eq_false_iff, toNat_op_append]
  omega

/-- R84 (c): a command whose operand is `IMM` fixes `SUB` to 0. -/
theorem isCommandWord_subNotZero (op sub : BitVec 4) (b : Byte)
    (hop : op.toNat = 0x3 ∨ op.toNat = 0x6 ∨ op.toNat = 0xA) (hsub : sub ≠ 0) :
    isCommandWord (commandWord op sub b) = false := by
  have hsub' : sub.toNat ≠ 0 := BitVec.toNat_ne.mp hsub
  have hlt := sub.isLt
  have hb := b.isLt
  rw [isCommandWord_eq_false_iff, toNat_commandWord]
  omega

/-! ### The interrupt level (60_exceptions.md R220) -/

theorem irq_eq_true_iff (s : State) :
    irq s = true ↔ (s.cfg.getLsbD 0 = true ∧ s.state = .done) ∨ (s.cfg.getLsbD 1 = true ∧ s.err ≠ 0) := by
  simp only [irq, Bool.or_eq_true, Bool.and_eq_true, decide_eq_true_eq]

/-! ### NOP, ACK, CLR.ERR and the operand registers (44_control.md R190 to R198) -/

/-- Settles O38: the word and the effect are the model's own lines, and the other words of `OP` 0 are no commands. -/
theorem nopChangesNothing : Obligations.NopChangesNothing :=
  ⟨rfl, fun _ => rfl, fun x s hx =>
    exec_wrCmd_of_not_command _ s (isCommandWord_operandBits 0x0 x (.inl rfl) hx)⟩

theorem exec_ack_done (s : State) (h : s.state = .done) : exec .ack s = .next { s with state := .idle } :=
  congrArg _ (if_pos h)

theorem exec_ack_not_done (s : State) (h : s.state ≠ .done) : exec .ack s = .next s :=
  congrArg _ (if_neg h)

/-- Settles O41: ACK acts in DONE only, and in IDLE the level has only its error term left. -/
theorem ackReleasesTheResult : Obligations.AckReleasesTheResult := by
  refine ⟨rfl, fun s => ⟨fun hdone => ⟨exec_ack_done s hdone, ?_⟩, exec_ack_not_done s⟩⟩
  rw [irq_eq_true_iff]
  simp only [reduceCtorEq, and_false, false_or]

theorem decodeCommand_clrErr (m : Byte) : decodeCommand (commandWord 0xA 0x0 m) = .ok (.clrErr m) := by
  simp [decodeCommand, decodeByte]

/-- R193: below the width of ERR, a bit survives CLR.ERR exactly when its mask bit is 0. -/
theorem getLsbD_clrErr (e : BitVec 4) (m : Byte) (n : Nat) (hn : n < 4) :
    (e &&& ~~~(errMask m)).getLsbD n = (e.getLsbD n && !m.getLsbD n) := by
  simp [errMask, hn]

/-- Settles O42: the mask is read bit by bit, and the words of `OP` 0xA with another `SUB` are no commands. -/
theorem clrErrClearsTheMaskedBits : Obligations.ClrErrClearsTheMaskedBits :=
  fun m s => ⟨decodeCommand_clrErr m, ⟨_, rfl, getLsbD_clrErr s.err m⟩, fun sub hsub =>
    exec_wrCmd_of_not_command _ s (isCommandWord_subNotZero 0xA sub m (.inr (.inr rfl)) hsub)⟩

/-- Settles O43: each Write stores its datum, and the level is that of the enables CFG then holds, the low two bits
of the datum. -/
theorem operandWritesStoreTheDatum : Obligations.OperandWritesStoreTheDatum := by
  refine fun d s => ⟨exec_wrStart d s, exec_wrCount d s, exec_wrCfg d s, ?_⟩
  have hbit (n : Nat) (hn : n < 2) : (d.setWidth 2).getLsbD n = d.getLsbD n := by
    rw [BitVec.getLsbD_setWidth, decide_eq_true hn, Bool.true_and]
  rw [irq_eq_true_iff, hbit 0 (by decide), hbit 1 (by decide)]

end Sys2Proof.Machine

namespace Sys2Proof.Machine

/-! ### The command errors and their causes (60_exceptions.md R211, R212) -/

/-- The ERR bit a command error owns, by its number in R211's table. -/
def CmdError.bitNo : CmdError → Nat
  | .illegalCmd => 0
  | .busy => 1
  | .notArmed => 2
  | .badAddr => 3

theorem CmdError.bit_eq_twoPow (e : CmdError) : e.bit = BitVec.twoPow 4 e.bitNo := by
  cases e <;> rfl

theorem CmdError.bitNo_injective : Function.Injective CmdError.bitNo := by
  intro e f h
  cases e <;> cases f <;> cases h <;> rfl

/-- R212: outside the bit its error owns, `raise` leaves ERR alone. -/
theorem eq_bitNo_of_raise_sets {e : CmdError} {s : State} {n : Nat} (hs : s.err.getLsbD n = false)
    (ht : (raise e s).err.getLsbD n = true) : e.bitNo = n := by
  rw [raise_err, BitVec.getLsbD_or, hs, Bool.false_or, e.bit_eq_twoPow, BitVec.getLsbD_twoPow,
    Bool.and_eq_true, decide_eq_true_eq, decide_eq_true_eq] at ht
  exact ht.2

/-- R211's table: the transactions that raise a command error, and the condition under which they do. -/
def CmdError.CausedBy : CmdError → Instr → State → Prop
  | .illegalCmd, i, _ => ∃ w, i = .wrCmd w ∧ isCommandWord w = false
  | .busy, i, s => i.isArm = true ∧ s.state = .armed
  | .notArmed, i, s => ((∃ b, i = .push b) ∨ i = .finish) ∧ s.state ≠ .armed
  | .badAddr, i, _ => ∃ a d, i = .wrOther a d ∧ isWritable a = false

/-- All that an instruction `i` taking `s` to `t` can do to ERR (R30, R212). -/
inductive ErrChange (i : Instr) (s t : State) : Prop where
  /-- A command error with its cause, which then is the whole effect. -/
  | raised (e : CmdError) (cause : e.CausedBy i s) (effect : t = raise e s)
  | kept (err : t.err = s.err)
  | masked (m : Byte) (instr : i = .clrErr m) (err : t.err = s.err &&& ~~~(errMask m))
  | reset (instr : IsReset i) (err : t.err = 0)

/-- Of the ways to change ERR only the command error sets a bit, and it sets its own. -/
theorem ErrChange.causedBy_of_set {i : Instr} {s t : State} (h : ErrChange i s t) (e : CmdError)
    (hs : s.err.getLsbD e.bitNo = false) (ht : t.err.getLsbD e.bitNo = true) : e.CausedBy i s := by
  cases h with
  | raised f cause effect =>
    subst effect
    obtain rfl : f = e := CmdError.bitNo_injective (eq_bitNo_of_raise_sets hs ht)
    exact cause
  | kept err => simp [err, hs] at ht
  | masked m _ err => simp [err, hs] at ht
  | reset _ err => simp [err] at ht

theorem exec_arm_of_armed {i : Instr} (hi : i.isArm = true) (s : State) (h : s.state = .armed) :
    exec i s = .next (raise .busy s) := by
  cases i with
  | build | buildDi | buildG2 | buildR6 => exact congrArg _ (buildRequest_of_armed _ _ s h)
  | recvRaw => exact congrArg _ (if_pos h)
  | _ => cases hi

/-- R120 to R122: only BUSY touches ERR. -/
theorem errChange_buildRequest {i : Instr} (hi : i.isArm = true) (k : Kind) (r : Request) (s : State) :
    ErrChange i s (buildRequest k r s) := by
  rcases buildRequest_cases k r s with ⟨harmed, h⟩ | ⟨-, -, h⟩ | ⟨-, -, h⟩
  · exact .raised .busy ⟨hi, harmed⟩ h
  · exact .kept (by rw [h])
  · exact .kept (by rw [h])

/-- R141: outside ARMED the raw receive starts. -/
theorem exec_recvRaw_of_not_armed (s : State) (h : s.state ≠ .armed) :
    exec .recvRaw s = .next { s with
      kind := .raw, marker := false, buf := [], txlen := 0, explen := 0, result := .none, state := .armed } :=
  congrArg _ (if_neg h)

theorem exists_errChange_recvRaw (s : State) : ∃ t, exec .recvRaw s = .next t ∧ ErrChange .recvRaw s t := by
  by_cases h : s.state = .armed
  · exact ⟨_, exec_arm_of_armed rfl s h, .raised .busy ⟨rfl, h⟩ rfl⟩
  · exact ⟨_, exec_recvRaw_of_not_armed s h, .kept rfl⟩

theorem exists_errChange_push (b : Byte) (s : State) :
    ∃ t, exec (.push b) s = .next t ∧ ErrChange (.push b) s t := by
  by_cases h : s.state = .armed
  · by_cases hk : s.kind = .raw
    · exact ⟨_, exec_push_raw b s h hk, .kept (pushRaw_err b s)⟩
    · exact ⟨_, exec_push_framed b s h hk, .kept ((appendFramed_err b _).trans (noteMarker_err b s))⟩
  · exact ⟨_, exec_push_stray b s h, .raised .notArmed ⟨.inl ⟨b, rfl⟩, h⟩ rfl⟩

theorem exists_errChange_finish (s : State) : ∃ t, exec .finish s = .next t ∧ ErrChange .finish s t := by
  by_cases h : s.state = .armed
  · exact ⟨_, exec_finish_armed s h, .kept rfl⟩
  · exact ⟨_, exec_finish_stray s h, .raised .notArmed ⟨.inr rfl, h⟩ rfl⟩

theorem exists_errChange_ack (s : State) : ∃ t, exec .ack s = .next t ∧ ErrChange .ack s t := by
  by_cases h : s.state = .done
  · exact ⟨_, exec_ack_done s h, .kept rfl⟩
  · exact ⟨_, exec_ack_not_done s h, .kept rfl⟩

theorem exists_errChange_command (i : Instr) (s : State) (hcmd : i.isCommand = true) :
    ∃ t, exec i s = .next t ∧ ErrChange i s t := by
  cases i with
  | nop | crcInit | crcFeed => exact ⟨_, rfl, .kept rfl⟩
  | reset => exact ⟨_, rfl, .reset (.inl rfl) rfl⟩
  | build | buildDi | buildG2 | buildR6 => exact ⟨_, rfl, errChange_buildRequest rfl _ _ s⟩
  | recvRaw => exact exists_errChange_recvRaw s
  | push b => exact exists_errChange_push b s
  | finish => exact exists_errChange_finish s
  | abortTo | abortCan => exact ⟨_, rfl, .kept (abortWith_err _ s)⟩
  | ack => exact exists_errChange_ack s
  | clrErr m => exact ⟨_, rfl, .masked m rfl rfl⟩
  | wrStart | wrCount | wrCfg | wrCmd | wrOther | rd | hwreset => cases hcmd

theorem decodeCommand_push (b : Byte) : decodeCommand (commandWord 0x6 0x0 b) = .ok (.push b) := by
  simp [decodeCommand, decodeByte]

/-- R83: a command is what its own transaction decodes to. -/
theorem canonical_of_isCommand (i : Instr) (hcmd : i.isCommand = true) : i.canonical = i := by
  cases i with
  | crcFeed b => exact canonical_crcFeed b
  | push b => exact canonical_wrCmd_of_ok (decodeCommand_push b)
  | clrErr m => exact canonical_wrCmd_of_ok (decodeCommand_clrErr m)
  | wrStart | wrCount | wrCfg | wrCmd | wrOther | rd | hwreset => cases hcmd
  | _ => rfl

/-- R195: a Write to CMD is the command its word encodes, or ILLEGAL_CMD. -/
theorem exists_errChange_wrCmd (w : Word) (s : State) :
    ∃ t, exec (.wrCmd w) s = .next t ∧ ErrChange (Instr.wrCmd w).canonical s t := by
  cases hw : decodeCommand w with
  | ok i =>
    have hcmd := decodeCommand_isCommand w i hw
    rw [canonical_wrCmd_of_ok hw, exec_wrCmd_of_ok w i s hw, executeCommand_eq_exec i s hcmd]
    exact exists_errChange_command i s hcmd
  | error e =>
    have hillegal : isCommandWord w = false := by
      rw [← Bool.not_eq_true, ← exists_decodeCommand_eq_ok_iff, hw]
      rintro ⟨i, ⟨⟩⟩
    exact ⟨_, exec_wrCmd_of_error w e s hw, .raised .illegalCmd
      ⟨w, decodeTxn_write_cmd_of_error w e hw, hillegal⟩ rfl⟩

/-- R195: a Write acts by its address, and where it acts on no register it is BAD_ADDR. -/
theorem exists_errChange_wrOther (a : Addr) (d : Word) (s : State) :
    ∃ t, exec (.wrOther a d) s = .next t ∧ ErrChange (Instr.wrOther a d).canonical s t := by
  cases ha : isWritable a with
  | false => exact ⟨_, exec_wrOther_of_not_writable a d s ha, .raised .badAddr
      ⟨a, d, decodeTxn_write_of_not_writable a d ha, ha⟩ rfl⟩
  | true =>
    simp only [isWritable, Bool.or_eq_true, beq_iff_eq] at ha
    rcases ha with ((rfl | rfl) | rfl) | rfl
    · exact exists_errChange_wrCmd d s
    · exact ⟨_, rfl, .kept rfl⟩
    · exact ⟨_, rfl, .kept rfl⟩
    · exact ⟨_, rfl, .kept rfl⟩

theorem exists_errChange (i : Instr) (s : State) :
    ∃ t, exec i s = .next t ∧ ErrChange i.canonical s t := by
  cases i with
  | wrStart | wrCount | wrCfg | rd => exact ⟨_, rfl, .kept rfl⟩
  | wrCmd w => exact exists_errChange_wrCmd w s
  | wrOther a d => exact exists_errChange_wrOther a d s
  | hwreset => exact ⟨_, rfl, .reset (.inr rfl) rfl⟩
  | _ =>
    rw [canonical_of_isCommand _ rfl]
    exact exists_errChange_command _ s rfl

/-- Whatever an instruction answers, its transaction changed ERR in one of the ways of `ErrChange`. -/
theorem errChange_of_exec {i : Instr} {s t : State} (h : exec i s = .next t) : ErrChange i.canonical s t := by
  obtain ⟨u, hu, hchange⟩ := exists_errChange i s
  obtain rfl : u = t := Host.Outcome.next.inj (hu.symm.trans h)
  exact hchange

/-- Settles O49: in its condition each error is the whole answer; conversely an ERR bit that turns on belongs to the
one error raised, which had its cause. -/
theorem commandErrorsHaveTheirCauses : Obligations.CommandErrorsHaveTheirCauses :=
  ⟨fun _ s hi harmed => exec_arm_of_armed hi s harmed,
    fun b s h => ⟨exec_push_stray b s h, exec_finish_stray s h⟩,
    exec_wrCmd_of_not_command,
    exec_wrOther_of_not_writable,
    fun _ _ _ h =>
      have hchange := errChange_of_exec h
      ⟨hchange.causedBy_of_set .illegalCmd, hchange.causedBy_of_set .busy,
        hchange.causedBy_of_set .notArmed, hchange.causedBy_of_set .badAddr⟩⟩

/-! ### IRQ in STATUS (60_exceptions.md R220) -/

/-- Settles O53: R220's formula, and the bit of R29's table that carries it. -/
theorem irqIsALevelOfState : Obligations.IrqIsALevelOfState :=
  fun s => ⟨irq_eq_true_iff s, getLsbD_statusWord s 3⟩

end Sys2Proof.Machine

namespace Sys2Proof.Machine

/-! ### The two reset sources (70_reset_and_hazards.md R240, 44_control.md R191) -/

theorem exec_reset (s : State) : exec .reset s = .next (resetBlock s) := rfl

theorem exec_hwreset (s : State) : exec .hwreset s = .next (resetBlock s) := rfl

/-- R46's table: nothing of the block's earlier state is in the result, only the three fields of the model's own. -/
theorem resetBlock_eq (s : State) :
    resetBlock s =
      { state := .idle, marker := false, kind := .custom, result := .none, err := 0, start := 0,
        count := 0, cfg := 0, crc := 0xFFFF, explen := 0, buf := [],
        txbuf := ⟨0, 0, 0, 0, 0, 0, 0, 0⟩, txlen := 0,
        params := s.params, pending := s.pending, readData := s.readData } := rfl

/-- Settles O39: both sources answer `resetBlock`, whose fields are R46's values. -/
theorem bothResetSourcesReset : Obligations.BothResetSourcesReset := by
  refine ⟨rfl, rfl, fun s => ⟨?_, ?_⟩⟩
  · rw [exec_hwreset, exec_reset]
  · rw [exec_reset, resetBlock_eq]

end Sys2Proof.Machine

namespace Sys2Proof

/-! ### The encoder after the decoder (30_encoding.md R84, R87) -/

/-- A Write of the word's own fields is the Write of the word. -/
theorem cmdWrite_fields {w : Word} {op sub : BitVec 4} {imm : Byte} (hop : (opField w).toNat = op.toNat)
    (hsub : subField w = sub) (himm : immField w = imm) : cmdWrite op sub imm = .write 0x000 w := by
  rw [cmdWrite, ← BitVec.eq_of_toNat_eq hop, ← hsub, ← himm, commandWord_fields]

theorem encode_of_decodeFixed {w : Word} {i j : Instr} {op : BitVec 4} (hop : (opField w).toNat = op.toNat)
    (hi : encode i = cmdWrite op 0x0 0x00) (h : decodeFixed w i = .ok j) : encode j = .write 0x000 w := by
  unfold decodeFixed at h
  split at h
  case isTrue hlow =>
    cases h
    obtain ⟨hsub, himm⟩ := (belowOp_eq_zero_iff w).1 hlow
    rw [hi, cmdWrite_fields hop hsub himm]
  case isFalse => cases h

theorem encode_of_decodeByte {w : Word} {mk : Byte → Instr} {j : Instr} {op : BitVec 4}
    (hop : (opField w).toNat = op.toNat) (hmk : ∀ b, encode (mk b) = cmdWrite op 0x0 b)
    (h : decodeByte w mk = .ok j) : encode j = .write 0x000 w := by
  unfold decodeByte at h
  split at h
  case isTrue hsub =>
    cases h
    rw [hmk, cmdWrite_fields hop hsub rfl]
  case isFalse => cases h

theorem encode_of_decodeBuild {w : Word} {j : Instr} (hop : (opField w).toNat = 0x4)
    (h : decodeBuild w = .ok j) : encode j = .write 0x000 w := by
  unfold decodeBuild at h
  split at h
  case isTrue himm =>
    split at h
    case h_5 => cases h
    all_goals
      next hsub =>
        cases h
        exact cmdWrite_fields hop (BitVec.eq_of_toNat_eq hsub) himm
  case isFalse => cases h

theorem encode_of_decodeAbort {w : Word} {j : Instr} (hop : (opField w).toNat = 0x8)
    (h : decodeAbort w = .ok j) : encode j = .write 0x000 w := by
  unfold decodeAbort at h
  split at h
  case isTrue himm =>
    split at h
    case h_3 => cases h
    all_goals
      next hsub =>
        cases h
        exact cmdWrite_fields hop (BitVec.eq_of_toNat_eq hsub) himm
  case isFalse => cases h

/-- Each line of the decoder answers a command whose fields in R83 are those of the word. -/
theorem encode_of_decodeCommand {w : Word} {i : Instr} (h : decodeCommand w = .ok i) :
    encode i = .write 0x000 w := by
  unfold decodeCommand at h
  split at h
  case h_1 hop => exact encode_of_decodeFixed (op := 0x0) hop rfl h
  case h_2 hop => exact encode_of_decodeFixed (op := 0x1) hop rfl h
  case h_3 hop => exact encode_of_decodeFixed (op := 0x2) hop rfl h
  case h_4 hop => exact encode_of_decodeByte (op := 0x3) hop (fun _ => rfl) h
  case h_5 hop => exact encode_of_decodeBuild hop h
  case h_6 hop => exact encode_of_decodeFixed (op := 0x5) hop rfl h
  case h_7 hop => exact encode_of_decodeByte (op := 0x6) hop (fun _ => rfl) h
  case h_8 hop => exact encode_of_decodeFixed (op := 0x7) hop rfl h
  case h_9 hop => exact encode_of_decodeAbort hop h
  case h_10 hop => exact encode_of_decodeFixed (op := 0x9) hop rfl h
  case h_11 hop => exact encode_of_decodeByte (op := 0xA) hop (fun _ => rfl) h
  case h_12 => cases h

theorem wellFormed_of_isCommand (i : Instr) (hcmd : i.isCommand = true) : i.wellFormed = true := by
  cases i with
  | wrStart | wrCount | wrCfg | wrCmd | wrOther | rd | hwreset => cases hcmd
  | _ => rfl

theorem isCommandWord_eq_false_of_error {w : Word} {e : IllegalWord} (h : decodeCommand w = .error e) :
    isCommandWord w = false := by
  rw [← Bool.not_eq_true, ← exists_decodeCommand_eq_ok_iff, h]
  rintro ⟨i, ⟨⟩⟩

/-- R195: a Write to CMD stands for the command its word encodes, or for the illegal word. -/
theorem roundTrip_write_cmd (w : Word) :
    (decodeTxn (.write 0x000 w)).wellFormed = true ∧ encode (decodeTxn (.write 0x000 w)) = .write 0x000 w := by
  cases hw : decodeCommand w with
  | ok i =>
    have hdec : decodeTxn (.write 0x000 w) = i := Machine.canonical_wrCmd_of_ok hw
    rw [hdec]
    exact ⟨wellFormed_of_isCommand i (decodeCommand_isCommand w i hw), encode_of_decodeCommand hw⟩
  | error e =>
    rw [Machine.decodeTxn_write_cmd_of_error w e hw]
    exact ⟨by rw [Instr.wellFormed, isCommandWord_eq_false_of_error hw]; rfl, rfl⟩

theorem roundTrip_write (a : Addr) (d : Word) :
    (decodeTxn (.write a d)).wellFormed = true ∧ encode (decodeTxn (.write a d)) = .write a d := by
  cases ha : isWritable a with
  | false =>
    rw [Machine.decodeTxn_write_of_not_writable a d ha]
    exact ⟨by rw [Instr.wellFormed, ha]; rfl, rfl⟩
  | true =>
    simp only [isWritable, Bool.or_eq_true, beq_iff_eq] at ha
    rcases ha with ((rfl | rfl) | rfl) | rfl
    · exact roundTrip_write_cmd d
    · exact ⟨rfl, rfl⟩
    · exact ⟨rfl, rfl⟩
    · exact ⟨rfl, rfl⟩

/-- Settles O6: a Write by its address, at CMD by its word; a Read and the reset input have one term each. -/
theorem encodeOfDecodeIsIdentity : Obligations.EncodeOfDecodeIsIdentity := by
  intro x
  cases x with
  | write a d => exact roundTrip_write a d
  | read a => exact ⟨rfl, rfl⟩
  | reset => exact ⟨rfl, rfl⟩

/-! ### The decoder after the encoder (30_encoding.md R83, R88) -/

/-- Settles O5: a command by its word, `wrCmd` and `wrOther` because a well-formed one holds an illegal word or an
address no Write acts on. -/
theorem decodeOfEncodeIsIdentity : Obligations.DecodeOfEncodeIsIdentity := by
  intro i hwf
  cases i with
  | wrStart | wrCount | wrCfg | rd | hwreset => rfl
  | wrCmd w =>
    have hillegal : isCommandWord w = false := by simpa [Instr.wellFormed] using hwf
    obtain ⟨e, he⟩ := decodeCommand_error_of_not_command w hillegal
    exact Machine.decodeTxn_write_cmd_of_error w e he
  | wrOther a d =>
    have hbad : isWritable a = false := by simpa [Instr.wellFormed] using hwf
    exact Machine.decodeTxn_write_of_not_writable a d hbad
  | _ => exact Machine.canonical_of_isCommand _ rfl

/-! ### Rows of the opcode map (30_encoding.md R83) -/

/-- Two rows that cover one word agree on every bit that both fix. -/
theorem CommandRow.pattern_and_mask_eq {r q : CommandRow} {w : Word} (hr : r.covers w = true)
    (hq : q.covers w = true) : r.pattern &&& q.mask = q.pattern &&& r.mask := by
  rw [← beq_iff_eq.1 hr, ← beq_iff_eq.1 hq, BitVec.and_assoc, BitVec.and_assoc, BitVec.and_comm r.mask]

theorem commandRows_pairwise_conflict :
    ∀ r ∈ commandRows, ∀ q ∈ commandRows, r.pattern &&& q.mask = q.pattern &&& r.mask → r = q := by decide

/-- Settles O4: any two different rows differ in a bit that both fix. -/
theorem opcodeRowsNeverOverlap : Obligations.OpcodeRowsNeverOverlap :=
  fun _ r q hr hq hrw hqw => commandRows_pairwise_conflict r hr q hq (CommandRow.pattern_and_mask_eq hrw hqw)

/-- Settles O1: the decoder run on the fifteen words. -/
theorem opcodeMapWordsDecode : Obligations.OpcodeMapWordsDecode :=
  ⟨rfl, rfl, rfl, rfl, rfl, rfl, rfl, rfl, rfl, rfl, rfl, rfl, rfl, rfl, rfl⟩

end Sys2Proof

namespace Sys2Proof.Machine

/-! ### A term and its transaction (44_control.md R195) -/

theorem canonical_of_wellFormed (i : Instr) (hwf : i.wellFormed = true) : i.canonical = i :=
  decodeOfEncodeIsIdentity i hwf

theorem wellFormed_canonical (i : Instr) : i.canonical.wellFormed = true :=
  (encodeOfDecodeIsIdentity (encode i)).1

theorem exec_wrCmd_of_decodeCommand {w : Word} {i : Instr} (h : decodeCommand w = .ok i) (s : State) :
    exec (.wrCmd w) s = exec i s := by
  rw [exec_wrCmd_of_ok w i s h, executeCommand_eq_exec i s (decodeCommand_isCommand w i h)]

theorem exec_canonical_wrCmd (w : Word) (s : State) : exec (Instr.wrCmd w).canonical s = exec (.wrCmd w) s := by
  cases hw : decodeCommand w with
  | ok i => rw [canonical_wrCmd_of_ok hw, exec_wrCmd_of_decodeCommand hw]
  | error e => exact congrArg (exec · s) (decodeTxn_write_cmd_of_error w e hw)

theorem exec_canonical_wrOther (a : Addr) (d : Word) (s : State) :
    exec (Instr.wrOther a d).canonical s = exec (.wrOther a d) s := by
  cases ha : isWritable a with
  | false => exact congrArg (exec · s) (decodeTxn_write_of_not_writable a d ha)
  | true =>
    simp only [isWritable, Bool.or_eq_true, beq_iff_eq] at ha
    rcases ha with ((rfl | rfl) | rfl) | rfl
    · exact exec_canonical_wrCmd d s
    · rfl
    · rfl
    · rfl

/-- Only `wrCmd` and `wrOther` have ill-formed terms, and those mean the instruction that acts (log entry 7). -/
theorem exec_canonical (i : Instr) (s : State) : exec i.canonical s = exec i s := by
  cases i with
  | wrCmd w => exact exec_canonical_wrCmd w s
  | wrOther a d => exact exec_canonical_wrOther a d s
  | _ => rw [canonical_of_wellFormed _ rfl]

/-- Settles O10: R195's case split is the same in the decoder of transactions and in the meaning of a Write. -/
theorem meaningFollowsTheTransaction : Obligations.MeaningFollowsTheTransaction :=
  ⟨exec_canonical, fun _ _ s h => exec_wrCmd_of_decodeCommand h s⟩

/-! ### Steps (00_scope.md R5, 20_memory.md R68) -/

/-- Settles O8: the step decodes the oldest transaction, and decoding undoes the encoding of a well-formed term. -/
theorem stepRunsTheDecodedInstruction : Obligations.StepRunsTheDecodedInstruction := by
  refine ⟨fun s i rest hwf hpending => ?_, step_of_pending, fun s hpending => ?_⟩
  · rw [step_of_pending s _ rest hpending, decodeOfEncodeIsIdentity i hwf]
  · rw [step, takeTxn_nil s hpending]

theorem decodeCommand_of_decodeTableWord {nbits w : Nat} {i : Instr} (h : decodeTableWord nbits w = some i) :
    decodeCommand (BitVec.ofNat 16 (w % 2 ^ nbits)) = .ok i := by
  unfold decodeTableWord at h
  split at h
  case isTrue =>
    split at h
    case h_1 j hj =>
      cases h
      exact hj
    case h_2 => cases h
  case isFalse => cases h

/-- Settles O9: the word stands first in the queue as a Write to CMD, which decodes to the command. -/
theorem fetchedWordRunsItsCommand : Obligations.FetchedWordRunsItsCommand := by
  intro s nbits w i h
  rw [State.withFetchWord, step_of_pending _ _ s.pending (issueNext_pending _ s)]
  exact congrArg (exec · s) (canonical_wrCmd_of_ok (decodeCommand_of_decodeTableWord h))

/-- Settles O11: whatever an instruction does to ERR, it answers a next state. -/
theorem everyInstructionAnswersNext : Obligations.EveryInstructionAnswersNext := by
  intro i s
  obtain ⟨t, ht, -⟩ := exists_errChange i s
  exact ⟨t, ht⟩

/-- Settles O45: a Write to CMD is its command or ILLEGAL_CMD, any other Write that acts on no register BAD_ADDR. -/
theorem busWritesComplete : Obligations.BusWritesComplete := by
  refine ⟨fun w i s h => ?_, exec_wrCmd_of_error, exec_wrOther_of_not_writable⟩
  obtain ⟨t, ht⟩ := everyInstructionAnswersNext i s
  exact ⟨t, ht, by rw [exec_wrCmd_of_decodeCommand h, ht]⟩

end Sys2Proof.Machine

namespace Sys2Proof.Machine

/-! ### What one instruction can do -/

/-- Every way an instruction, as its transaction decodes, can change the state `s`: one constructor for each case of a
meaning, with the condition of that case. -/
inductive Effect (s : State) : Instr → State → Prop where
  /-- R190, and R151 and R192 where ABORT and ACK find nothing to end. -/
  | unchanged (i : Instr) : i = .nop ∨ ((i = .abortTo ∨ i = .abortCan) ∧ s.state ≠ .armed) ∨
      (i = .ack ∧ s.state ≠ .done) → Effect s i s
  /-- R212. -/
  | raised (i : Instr) (e : CmdError) : e.CausedBy i s → Effect s i (raise e s)
  /-- R240. -/
  | reset (i : Instr) : IsReset i → Effect s i (resetBlock s)
  /-- R105. -/
  | crcStarted : Effect s .crcInit { s with crc := crcInitValue }
  /-- R106. -/
  | crcFed (b : Byte) : Effect s (.crcFeed b) { s with crc := crcStep s.crc b }
  /-- R125 to R128, the arming case, whichever of the four requests it is; none has the kind RAW. -/
  | built (i : Instr) (k : Kind) (r : Request) : IsBuild i → k ≠ .raw → s.state ≠ .armed →
      countLegal r.count = true →
      Effect s i { s with
        kind := k, marker := false, buf := [], txbuf := requestBuf r, txlen := 8,
        explen := expectedLength r, result := .none, state := .armed }
  /-- R122: only BUILD can meet an illegal count, in COUNT. -/
  | rejected : s.state ≠ .armed → countLegal s.count = false →
      Effect s .build { s with
        kind := .custom, marker := false, buf := [], txlen := 0, explen := 0, result := .invalidRequest,
        state := .done }
  /-- R141. -/
  | rawArmed : s.state ≠ .armed →
      Effect s .recvRaw { s with
        kind := .raw, marker := false, buf := [], txlen := 0, explen := 0, result := .none, state := .armed }
  /-- R142, a RAW receive below its capacity. -/
  | rawStored (b : Byte) : s.state = .armed → s.kind = .raw → s.buf.length ≠ 256 →
      Effect s (.push b) { s with buf := s.buf ++ [b] }
  /-- R146. -/
  | overflowed (b : Byte) : s.state = .armed → s.kind = .raw → s.buf.length = 256 →
      Effect s (.push b) (finishWith .overflow s)
  /-- R142, R143, a framed receive that goes on. -/
  | framedStored (b : Byte) : s.state = .armed → s.kind ≠ .raw →
      s.buf.length + 1 ≠ (noteMarker b s).explen.toNat →
      Effect s (.push b) { noteMarker b s with buf := s.buf ++ [b] }
  /-- R144. -/
  | framedEnded (b : Byte) : s.state = .armed → s.kind ≠ .raw →
      s.buf.length + 1 = (noteMarker b s).explen.toNat →
      Effect s (.push b) (complete { noteMarker b s with buf := s.buf ++ [b] })
  /-- R149. -/
  | finished : s.state = .armed → Effect s .finish (complete s)
  /-- R152. -/
  | timedOut : s.state = .armed → Effect s .abortTo (finishWith .timedOut s)
  /-- R153. -/
  | cancelled : s.state = .armed → Effect s .abortCan (finishWith .cancelled s)
  /-- R192. -/
  | acknowledged : s.state = .done → Effect s .ack { s with state := .idle }
  /-- R193. -/
  | errCleared (m : Byte) : Effect s (.clrErr m) { s with err := s.err &&& ~~~(errMask m) }
  /-- R196. -/
  | startWritten (d : Word) : Effect s (.wrStart d) { s with start := d }
  /-- R197. -/
  | countWritten (d : Word) : Effect s (.wrCount d) { s with count := d }
  /-- R198. -/
  | cfgWritten (d : Word) : Effect s (.wrCfg d) { s with cfg := d.setWidth 2 }
  /-- R199. -/
  | read (a : Addr) : Effect s (.rd a) { s with readData := some (readReg a s) }

theorem isArm_of_isBuild {i : Instr} (h : IsBuild i) : i.isArm = true := by
  rcases h with rfl | rfl | rfl | rfl <;> rfl

/-- With a legal count a BUILD family command is refused or arms. -/
theorem effect_buildRequest_of_legal {i : Instr} {k : Kind} {r : Request} (s : State) (hi : IsBuild i)
    (hk : k ≠ .raw) (hr : countLegal r.count = true) : Effect s i (buildRequest k r s) := by
  by_cases h : s.state = .armed
  · rw [buildRequest_of_armed k r s h]
    exact .raised i .busy ⟨isArm_of_isBuild hi, h⟩
  · rw [buildRequest_of_legal k r s h hr]
    exact .built i k r hi hk h hr

theorem effect_build (s : State) : Effect s .build (buildRequest .custom (customRequest s) s) := by
  cases hr : countLegal s.count with
  | true => exact effect_buildRequest_of_legal s (.inl rfl) (by decide) hr
  | false =>
    by_cases h : s.state = .armed
    · rw [buildRequest_of_armed _ _ s h]
      exact .raised .build .busy ⟨rfl, h⟩
    · rw [buildRequest_of_illegal _ _ s h (by simp [customRequest, hr])]
      exact .rejected h hr

theorem exists_effect_recvRaw (s : State) : ∃ t, exec .recvRaw s = .next t ∧ Effect s .recvRaw t := by
  by_cases h : s.state = .armed
  · exact ⟨_, exec_arm_of_armed rfl s h, .raised _ .busy ⟨rfl, h⟩⟩
  · exact ⟨_, exec_recvRaw_of_not_armed s h, .rawArmed h⟩

theorem exists_effect_push (b : Byte) (s : State) : ∃ t, exec (.push b) s = .next t ∧ Effect s (.push b) t := by
  rcases exec_push_cases b s with ⟨h, ht⟩ | ⟨h, hk, hlen, ht⟩ | ⟨h, hk, hlen, ht⟩ | ⟨h, hk, u, rfl, hlen, ht⟩ |
    ⟨h, hk, u, rfl, hlen, ht⟩
  · exact ⟨_, ht, .raised _ .notArmed ⟨.inl ⟨b, rfl⟩, h⟩⟩
  · exact ⟨_, ht, .overflowed b h hk hlen⟩
  · exact ⟨_, ht, .rawStored b h hk hlen⟩
  · exact ⟨_, ht, .framedStored b h hk (by simpa using hlen)⟩
  · exact ⟨_, ht, .framedEnded b h hk (by simpa using hlen)⟩

theorem exists_effect_finish (s : State) : ∃ t, exec .finish s = .next t ∧ Effect s .finish t := by
  by_cases h : s.state = .armed
  · exact ⟨_, exec_finish_armed s h, .finished h⟩
  · exact ⟨_, exec_finish_stray s h, .raised _ .notArmed ⟨.inr rfl, h⟩⟩

/-- R151: an abort that does not end a receive does nothing. -/
theorem effect_abortWith {i : Instr} {r : Result} {s : State} (hi : i = .abortTo ∨ i = .abortCan)
    (h : s.state = .armed → Effect s i (finishWith r s)) : Effect s i (abortWith r s) := by
  by_cases harmed : s.state = .armed
  · rw [abortWith_armed r s harmed]
    exact h harmed
  · rw [abortWith_not_armed r s harmed]
    exact .unchanged i (.inr (.inl ⟨hi, harmed⟩))

theorem exists_effect_ack (s : State) : ∃ t, exec .ack s = .next t ∧ Effect s .ack t := by
  by_cases h : s.state = .done
  · exact ⟨_, exec_ack_done s h, .acknowledged h⟩
  · exact ⟨_, exec_ack_not_done s h, .unchanged _ (.inr (.inr ⟨rfl, h⟩))⟩

theorem exists_effect_of_wellFormed (i : Instr) (s : State) (hwf : i.wellFormed = true) :
    ∃ t, exec i s = .next t ∧ Effect s i t := by
  obtain ⟨hdi, hg2, hr6⟩ := presets_are_legal
  cases i with
  | nop => exact ⟨_, rfl, .unchanged _ (.inl rfl)⟩
  | reset => exact ⟨_, exec_reset s, .reset _ (.inl rfl)⟩
  | crcInit => exact ⟨_, rfl, .crcStarted⟩
  | crcFeed b => exact ⟨_, rfl, .crcFed b⟩
  | build => exact ⟨_, exec_build s, effect_build s⟩
  | buildDi => exact ⟨_, exec_buildDi s, effect_buildRequest_of_legal s (.inr (.inl rfl)) (by decide) hdi⟩
  | buildG2 =>
    exact ⟨_, exec_buildG2 s, effect_buildRequest_of_legal s (.inr (.inr (.inl rfl))) (by decide) hg2⟩
  | buildR6 =>
    exact ⟨_, exec_buildR6 s, effect_buildRequest_of_legal s (.inr (.inr (.inr rfl))) (by decide) hr6⟩
  | recvRaw => exact exists_effect_recvRaw s
  | push b => exact exists_effect_push b s
  | finish => exact exists_effect_finish s
  | abortTo => exact ⟨_, exec_abortTo s, effect_abortWith (.inl rfl) .timedOut⟩
  | abortCan => exact ⟨_, exec_abortCan s, effect_abortWith (.inr rfl) .cancelled⟩
  | ack => exact exists_effect_ack s
  | clrErr m => exact ⟨_, rfl, .errCleared m⟩
  | wrStart d => exact ⟨_, exec_wrStart d s, .startWritten d⟩
  | wrCount d => exact ⟨_, exec_wrCount d s, .countWritten d⟩
  | wrCfg d => exact ⟨_, exec_wrCfg d s, .cfgWritten d⟩
  | wrCmd w =>
    have hillegal : isCommandWord w = false := by simpa [Instr.wellFormed] using hwf
    exact ⟨_, exec_wrCmd_of_not_command w s hillegal, .raised _ .illegalCmd ⟨w, rfl, hillegal⟩⟩
  | wrOther a d =>
    have hbad : isWritable a = false := by simpa [Instr.wellFormed] using hwf
    exact ⟨_, exec_wrOther_of_not_writable a d s hbad, .raised _ .badAddr ⟨a, d, rfl, hbad⟩⟩
  | rd a => exact ⟨_, exec_rd a s, .read a⟩
  | hwreset => exact ⟨_, exec_hwreset s, .reset _ (.inr rfl)⟩

/-- The inversion of a step: an instruction's answer is one of the effects of what its transaction decodes to. -/
theorem effect_of_exec {i : Instr} {s t : State} (h : exec i s = .next t) : Effect s i.canonical t := by
  obtain ⟨u, hu, heffect⟩ := exists_effect_of_wellFormed i.canonical s (wellFormed_canonical i)
  rw [exec_canonical, h] at hu
  cases hu
  exact heffect

/-! ### The writers of each field -/

/-- Only a Read's transaction decodes to a Read. -/
theorem eq_rd_of_canonical_eq_rd {i : Instr} {a : Addr} (h : i.canonical = .rd a) : i = .rd a := by
  have hread : encode i = .read a := by
    rw [← (encodeOfDecodeIsIdentity (encode i)).2]
    exact congrArg encode h
  cases i with
  | rd => cases hread; rfl
  | _ => cases hread

theorem Effect.params_eq {s t : State} {i : Instr} (h : Effect s i t) : t.params = s.params := by
  cases h with
  | framedStored b | framedEnded b => exact noteMarker_params b s
  | _ => rfl

theorem Effect.pending_eq {s t : State} {i : Instr} (h : Effect s i t) : t.pending = s.pending := by
  cases h with
  | framedStored b | framedEnded b => exact noteMarker_pending b s
  | _ => rfl

theorem Effect.readData_eq {s t : State} {i : Instr} (h : Effect s i t) (hi : ∀ a, i ≠ .rd a) :
    t.readData = s.readData := by
  cases h with
  | read a => exact absurd rfl (hi a)
  | framedStored b | framedEnded b => exact noteMarker_readData b s
  | _ => rfl

/-- Settles O12: no effect writes the parameters or the queue, and only a Read's writes the datum. -/
theorem modelFieldsAreLeftAlone : Obligations.ModelFieldsAreLeftAlone := by
  intro i s t h
  have heffect := effect_of_exec h
  exact ⟨heffect.params_eq, heffect.pending_eq, fun hi =>
    heffect.readData_eq fun a ha => hi a (eq_rd_of_canonical_eq_rd ha)⟩

theorem Effect.txbuf_change {s t : State} {i : Instr} (h : Effect s i t) (hne : t.txbuf ≠ s.txbuf) :
    IsReset i ∨ (IsBuild i ∧ s.state ≠ .armed ∧ t.state = .armed) := by
  cases h with
  | reset i hi => exact .inl hi
  | built i k r hi _ hs _ => exact .inr ⟨hi, hs, rfl⟩
  | framedStored b | framedEnded b => exact absurd (noteMarker_txbuf b s) hne
  | _ => exact absurd rfl hne

theorem Effect.txlen_change {s t : State} {i : Instr} (h : Effect s i t) (hne : t.txlen ≠ s.txlen) :
    IsReset i ∨ (i.isArm = true ∧ s.state ≠ .armed) := by
  cases h with
  | reset i hi => exact .inl hi
  | built i k r hi _ hs _ => exact .inr ⟨isArm_of_isBuild hi, hs⟩
  | rejected hs _ => exact .inr ⟨rfl, hs⟩
  | rawArmed hs => exact .inr ⟨rfl, hs⟩
  | framedStored b | framedEnded b => exact absurd (noteMarker_txlen b s) hne
  | _ => exact absurd rfl hne

/-- Settles O22: the two fields change in no other effect than a reset and the effects of the arm commands outside
ARMED, and of those only the arming BUILD family command writes TXBUF. -/
theorem requestBytesAreKept : Obligations.RequestBytesAreKept :=
  fun _ _ _ h => ⟨(effect_of_exec h).txbuf_change, (effect_of_exec h).txlen_change⟩

theorem Effect.start_change {s t : State} {i : Instr} (h : Effect s i t) (hne : t.start ≠ s.start) :
    IsReset i ∨ i = .wrStart t.start := by
  cases h with
  | reset i hi => exact .inl hi
  | startWritten d => exact .inr rfl
  | framedStored b | framedEnded b => exact absurd (noteMarker_start b s) hne
  | _ => exact absurd rfl hne

theorem Effect.count_change {s t : State} {i : Instr} (h : Effect s i t) (hne : t.count ≠ s.count) :
    IsReset i ∨ i = .wrCount t.count := by
  cases h with
  | reset i hi => exact .inl hi
  | countWritten d => exact .inr rfl
  | framedStored b | framedEnded b => exact absurd (noteMarker_count b s) hne
  | _ => exact absurd rfl hne

theorem Effect.cfg_change {s t : State} {i : Instr} (h : Effect s i t) (hne : t.cfg ≠ s.cfg) :
    IsReset i ∨ ∃ d : Word, i = .wrCfg d ∧ t.cfg = d.setWidth 2 := by
  cases h with
  | reset i hi => exact .inl hi
  | cfgWritten d => exact .inr ⟨d, rfl, rfl⟩
  | framedStored b | framedEnded b => exact absurd (noteMarker_cfg b s) hne
  | _ => exact absurd rfl hne

/-- Settles O48: of the effects only a reset and the register's own Write change it. -/
theorem operandRegistersHaveOneWriter : Obligations.OperandRegistersHaveOneWriter :=
  fun _ _ _ h => ⟨(effect_of_exec h).start_change, (effect_of_exec h).count_change, (effect_of_exec h).cfg_change⟩

/-- R175: a receive that ends with OK keeps its frame, and one that ends otherwise clears it. -/
theorem complete_buf_cases (s : State) :
    ((complete s).result = .ok ∧ (complete s).buf = s.buf) ∨
      ((complete s).result ≠ .ok ∧ (complete s).buf = []) := by
  by_cases hv : verdict s.params (frame s) s.kind = .ok
  · exact .inl ⟨hv, if_pos hv⟩
  · exact .inr ⟨hv, if_neg hv⟩

theorem Effect.buf_change {s t : State} {i : Instr} (h : Effect s i t) (hne : t.buf ≠ s.buf) :
    (t.buf = [] ∧ (IsReset i ∨ (i.isArm = true ∧ s.state ≠ .armed))) ∨
    (s.state = .armed ∧ t.state = .armed ∧ ∃ b, i = .push b ∧ t.buf = s.buf ++ [b]) ∨
    (s.state = .armed ∧ t.state = .done ∧ t.result = .ok ∧ ∃ b, i = .push b ∧ t.buf = s.buf ++ [b]) ∨
    (s.state = .armed ∧ t.state = .done ∧ t.result ≠ .ok ∧ t.buf = []) := by
  cases h with
  | reset i hi => exact .inl ⟨rfl, .inl hi⟩
  | built i k r hi _ hs _ => exact .inl ⟨rfl, .inr ⟨isArm_of_isBuild hi, hs⟩⟩
  | rejected hs _ => exact .inl ⟨rfl, .inr ⟨rfl, hs⟩⟩
  | rawArmed hs => exact .inl ⟨rfl, .inr ⟨rfl, hs⟩⟩
  | rawStored b hs _ _ => exact .inr (.inl ⟨hs, hs, b, rfl, rfl⟩)
  | framedStored b hs _ _ => exact .inr (.inl ⟨hs, (noteMarker_state b s).trans hs, b, rfl, rfl⟩)
  | framedEnded b hs _ _ =>
    rcases complete_buf_cases { noteMarker b s with buf := s.buf ++ [b] } with ⟨hok, hbuf⟩ | ⟨hfail, hbuf⟩
    · exact .inr (.inr (.inl ⟨hs, rfl, hok, b, rfl, hbuf⟩))
    · exact .inr (.inr (.inr ⟨hs, rfl, hfail, hbuf⟩))
  | finished hs =>
    rcases complete_buf_cases s with ⟨_, hbuf⟩ | ⟨hfail, hbuf⟩
    · exact absurd hbuf hne
    · exact .inr (.inr (.inr ⟨hs, rfl, hfail, hbuf⟩))
  | overflowed _ hs _ _ | timedOut hs | cancelled hs =>
    exact .inr (.inr (.inr ⟨hs, rfl, nofun, rfl⟩))
  | _ => exact absurd rfl hne

/-- Settles O36: the buffer is emptied by arming and reset, grows by the byte pushed, and otherwise changes only as a
receive ends, when the result decides whether it is kept. -/
theorem bufferChangesOnlyByItsWriters : Obligations.BufferChangesOnlyByItsWriters :=
  fun _ _ _ h => (effect_of_exec h).buf_change

/-! ### Edges of STATE (10_state.md R24) -/

/-- R24's table: arming, an illegal count, the five ends of a receive, ACK and reset. -/
theorem Effect.state_change {s t : State} {i : Instr} (h : Effect s i t) (hne : t.state ≠ s.state) :
    (IsBuild i ∧ s.state ≠ .armed ∧ t.state = .armed ∧ t.result = .none) ∨
    (i = .build ∧ s.state ≠ .armed ∧ t.state = .done ∧ t.result = .invalidRequest ∧
      (s.count.toNat < 2 ∨ 125 < s.count.toNat)) ∨
    (i = .recvRaw ∧ s.state ≠ .armed ∧ t.state = .armed ∧ t.result = .none) ∨
    (s.state = .armed ∧ t.state = .done ∧ ∃ b, i = .push b ∧
      ((s.kind = .raw ∧ s.buf.length = 256 ∧ t.result = .overflow) ∨
       (s.kind ≠ .raw ∧ s.buf.length + 1 = t.explen.toNat))) ∨
    (s.state = .armed ∧ t.state = .done ∧ i = .finish) ∨
    (s.state = .armed ∧ t.state = .done ∧ i = .abortTo ∧ t.result = .timedOut) ∨
    (s.state = .armed ∧ t.state = .done ∧ i = .abortCan ∧ t.result = .cancelled) ∨
    (s.state = .done ∧ t.state = .idle ∧ i = .ack) ∨
    (t.state = .idle ∧ IsReset i) := by
  cases h with
  | reset i hi => simp [hi, State.reset]
  | built i k r hi _ hs _ => exact .inl ⟨hi, hs, rfl, rfl⟩
  | rejected hs hillegal =>
    have hrange : ¬ (2 ≤ s.count.toNat ∧ s.count.toNat ≤ 125) := by
      rw [← countLegal_iff, hillegal]
      decide
    exact .inr (.inl ⟨rfl, hs, rfl, rfl, by omega⟩)
  | rawArmed hs => exact .inr (.inr (.inl ⟨rfl, hs, rfl, rfl⟩))
  | overflowed b hs hk hlen =>
    exact .inr (.inr (.inr (.inl ⟨hs, rfl, b, rfl, .inl ⟨hk, hlen, rfl⟩⟩)))
  | framedEnded b hs hk hlen =>
    exact .inr (.inr (.inr (.inl ⟨hs, rfl, b, rfl, .inr ⟨hk, hlen⟩⟩)))
  | finished hs => exact .inr (.inr (.inr (.inr (.inl ⟨hs, rfl, rfl⟩))))
  | timedOut hs => simp [hs]
  | cancelled hs => simp [hs]
  | acknowledged hs => simp [hs]
  | framedStored b => exact absurd (noteMarker_state b s) hne
  | _ => exact absurd rfl hne

/-- Settles O55: the effects that change STATE are the rows of the table. -/
theorem stateChangesOnlyAlongItsEdges : Obligations.StateChangesOnlyAlongItsEdges :=
  fun _ _ _ h => (effect_of_exec h).state_change

/-! ### ERR and IRQ (60_exceptions.md R211 to R221) -/

/-- Settles O50: of the ways to change ERR only a masked clear and a reset turn a bit off. -/
theorem errBitsAreSticky : Obligations.ErrBitsAreSticky := by
  intro i s t n h hs ht
  cases errChange_of_exec h with
  | raised e _ effect => simp [effect, hs] at ht
  | kept err => simp [err, hs] at ht
  | masked m instr err =>
    have hn : n < 4 := BitVec.lt_of_getLsbD hs
    rw [err, getLsbD_clrErr _ _ _ hn, hs] at ht
    exact .inr ⟨m, instr, by simpa using ht⟩
  | reset instr _ => exact .inl instr

/-- Only a command error turns a bit on, and one error turns on one bit. -/
theorem ErrChange.exists_bitNo {i : Instr} {s t : State} (h : ErrChange i s t) : ∃ e : CmdError, ∀ n,
    s.err.getLsbD n = false → t.err.getLsbD n = true → e.bitNo = n := by
  cases h with
  | raised e cause effect => exact ⟨e, fun n hs ht => eq_bitNo_of_raise_sets hs (effect ▸ ht)⟩
  | kept err => exact ⟨.busy, fun n hs ht => by simp [err, hs] at ht⟩
  | masked m _ err => exact ⟨.busy, fun n hs ht => by simp [err, hs] at ht⟩
  | reset _ err => exact ⟨.busy, fun n hs ht => by simp [err] at ht⟩

/-- Settles O51: both bits are the bit of the one error raised. -/
theorem atMostOneErrorPerTransaction : Obligations.AtMostOneErrorPerTransaction := by
  intro i s t n k h hsn htn hsk htk
  obtain ⟨e, he⟩ := (errChange_of_exec h).exists_bitNo
  rw [← he n hsn htn, he k hsk htk]

/-- The line stays high while its enables are kept and neither of its sources goes off. -/
theorem irq_of_sources {s t : State} (hcfg : t.cfg = s.cfg) (hdone : s.state = .done → t.state = .done)
    (herr : s.err ≠ 0 → t.err ≠ 0) (h : irq s = true) : irq t = true := by
  rw [irq_eq_true_iff] at h ⊢
  rw [hcfg]
  exact h.imp (And.imp_right hdone) (And.imp_right herr)

theorem raise_err_ne_zero (e : CmdError) (s : State) : (raise e s).err ≠ 0 := by
  intro h
  have hbit := congrArg (·.getLsbD e.bitNo) h
  have hlt : e.bitNo < 4 := by cases e <;> decide
  simp [e.bit_eq_twoPow, hlt] at hbit

/-- R221: an effect that is none of these keeps CFG, does not leave DONE and clears no ERR bit. -/
theorem Effect.irq_lowered {s t : State} {i : Instr} (h : Effect s i t) (hs : irq s = true) (ht : irq t = false) :
    i = .ack ∨ i.isArm = true ∨ (∃ m, i = .clrErr m) ∨ (∃ d, i = .wrCfg d) ∨ IsReset i := by
  have hnot_kept : ¬ (t.cfg = s.cfg ∧ (s.state = .done → t.state = .done) ∧ (s.err ≠ 0 → t.err ≠ 0)) := by
    rintro ⟨hcfg, hdone, herr⟩
    rw [irq_of_sources hcfg hdone herr hs] at ht
    cases ht
  cases h with
  | acknowledged => exact .inl rfl
  | built i k r hi => exact .inr (.inl (isArm_of_isBuild hi))
  | rejected | rawArmed => exact .inr (.inl rfl)
  | errCleared m => exact .inr (.inr (.inl ⟨m, rfl⟩))
  | cfgWritten d => exact .inr (.inr (.inr (.inl ⟨d, rfl⟩)))
  | reset i hi => exact .inr (.inr (.inr (.inr hi)))
  | raised i e => exact absurd ⟨rfl, id, fun _ => raise_err_ne_zero e s⟩ hnot_kept
  | framedStored | framedEnded => exact absurd (by simp [complete]) hnot_kept
  | overflowed | finished | timedOut | cancelled => exact absurd ⟨rfl, fun _ => rfl, id⟩ hnot_kept
  | unchanged | crcStarted | crcFed | rawStored | startWritten | countWritten | read =>
    exact absurd ⟨rfl, id, id⟩ hnot_kept

/-- Settles O54: an effect that belongs to none of these instructions keeps what raised the line. -/
theorem irqIsLoweredOnlyByItsCause : Obligations.IrqIsLoweredOnlyByItsCause :=
  fun _ _ _ h => (effect_of_exec h).irq_lowered

end Sys2Proof.Machine

namespace Sys2Proof.Machine

/-! ### The invariant (10_state.md R47) -/

/-- The invariant says nothing of ERR, the operand registers, CRC and the model's own fields. -/
theorem Inv.with_others {s : State} (h : Inv s) {err : BitVec 4} {start count : Word} {cfg : BitVec 2} {crc : Word}
    {params : Params} {pending : List HostTxn} {readData : Option Word} :
    Inv { s with
      err := err, start := start, count := count, cfg := cfg, crc := crc, params := params, pending := pending,
      readData := readData } := { h with }

/-- What of the invariant does not depend on how far a receive has come: a state that ends one need meet no more. -/
structure BufferInv (s : State) : Prop where
  bufCapacity : s.buf.length ≤ 256
  markerFirst : s.marker = true → s.kind ≠ .raw ∧ s.buf.head? = some 0x32
  requestValid : s.txlen = 8 →
    s.txbuf.b0 = 0x01 ∧ s.txbuf.b1 = 0x03 ∧
      wordOfBytes s.txbuf.b6 s.txbuf.b7 =
        crc16 [s.txbuf.b0, s.txbuf.b1, s.txbuf.b2, s.txbuf.b3, s.txbuf.b4, s.txbuf.b5]
  txlenValue : s.txlen = 0 ∨ s.txlen = 8
  rawNoLength : s.kind = .raw → s.explen = 0

theorem Inv.bufferInv {s : State} (h : Inv s) : BufferInv s :=
  ⟨h.bufCapacity, h.markerFirst, h.requestValid, h.txlenValue, h.rawNoLength⟩

/-- R175 keeps R47 (e): a failure leaves nothing in the buffer. -/
theorem BufferInv.inv_finishWith {s : State} (h : BufferInv s) {r : Result} (hr : r ≠ .none) :
    Inv (finishWith r s) where
  bufCapacity := by
    rw [finishWith_buf]
    split
    · exact h.bufCapacity
    · exact Nat.zero_le _
  framedRoom := nofun
  markerFirst := by
    rw [finishWith_marker, finishWith_buf]
    split
    · exact h.markerFirst
    · exact nofun
  armedNoResult := nofun
  failureCleared := fun _ _ hok => ⟨if_neg hok, if_neg hok⟩
  requestValid := h.requestValid
  txlenValue := h.txlenValue
  markerRoom := nofun
  rawNoLength := h.rawNoLength
  doneHasResult := fun _ => hr

theorem BufferInv.inv_complete {s : State} (h : BufferInv s) : Inv (complete s) :=
  h.inv_finishWith (verdict_ne_none _ _ _)


/-- Settles O56: each property is about constants. -/
theorem invariantHoldsAtReset : Obligations.InvariantHoldsAtReset := by
  constructor <;> decide

theorem crc_of_requestBuf (r : Request) :
    wordOfBytes (requestBuf r).b6 (requestBuf r).b7 = crc16 (requestBody r) := by
  rw [← wordOfBytes_of_word (crc16 (requestBody r)), ← loByte_eq_setWidth, ← hiByte_eq_setWidth]
  rfl

/-- R120 arms with a valid request in TXBUF (R123) and an expected length between 9 and 255 (R124). -/
theorem inv_built {s : State} {k : Kind} {r : Request} (hk : k ≠ .raw) (hr : countLegal r.count = true) :
    Inv { s with
      kind := k, marker := false, buf := [], txbuf := requestBuf r, txlen := 8,
      explen := expectedLength r, result := .none, state := .armed } := by
  have hlen := toNat_expectedLength r hr
  obtain ⟨-, hmax⟩ := (countLegal_iff r.count).1 hr
  exact {
    bufCapacity := Nat.zero_le _
    framedRoom := fun _ _ => ⟨by simp [hlen], by simp only [hlen]; omega⟩
    markerFirst := nofun
    armedNoResult := fun _ => rfl
    failureCleared := fun harmed => absurd rfl harmed
    requestValid := fun _ => ⟨rfl, rfl, crc_of_requestBuf r⟩
    txlenValue := .inr rfl
    markerRoom := fun _ _ _ => by simp only [hlen]; omega
    rawNoLength := fun hraw => absurd hraw hk
    doneHasResult := nofun }

/-- R122: an illegal count leaves no request, no expected length and an empty buffer. -/
theorem inv_rejected (s : State) :
    Inv { s with
      kind := .custom, marker := false, buf := [], txlen := 0, explen := 0, result := .invalidRequest,
      state := .done } where
  bufCapacity := Nat.zero_le _
  framedRoom := nofun
  markerFirst := nofun
  armedNoResult := nofun
  failureCleared := fun _ _ _ => ⟨rfl, rfl⟩
  requestValid := nofun
  txlenValue := .inl rfl
  markerRoom := nofun
  rawNoLength := nofun
  doneHasResult := nofun

/-- R141: a RAW receive starts empty, with no request and no expected length. -/
theorem inv_rawArmed (s : State) :
    Inv { s with
      kind := .raw, marker := false, buf := [], txlen := 0, explen := 0, result := .none, state := .armed } where
  bufCapacity := Nat.zero_le _
  framedRoom := fun _ hk => absurd rfl hk
  markerFirst := nofun
  armedNoResult := fun _ => rfl
  failureCleared := fun harmed => absurd rfl harmed
  requestValid := nofun
  txlenValue := .inl rfl
  markerRoom := fun _ hk => absurd rfl hk
  rawNoLength := fun _ => rfl
  doneHasResult := nofun

theorem Inv.acknowledged {s : State} (h : Inv s) (hs : s.state = .done) : Inv { s with state := .idle } where
  bufCapacity := h.bufCapacity
  framedRoom := nofun
  markerFirst := h.markerFirst
  armedNoResult := nofun
  failureCleared := fun _ => h.failureCleared (by rw [hs]; decide)
  requestValid := h.requestValid
  txlenValue := h.txlenValue
  markerRoom := nofun
  rawNoLength := h.rawNoLength
  doneHasResult := nofun

/-- A RAW receive that goes on: no marker to keep first, and a byte below the capacity fits. -/
theorem Inv.rawStored {s : State} (h : Inv s) (b : Byte) (hs : s.state = .armed) (hk : s.kind = .raw)
    (hlen : s.buf.length ≠ 256) : Inv { s with buf := s.buf ++ [b] } where
  bufCapacity := by
    have hcap := h.bufCapacity
    rw [List.length_append, List.length_singleton]
    omega
  framedRoom := fun _ hframed => absurd hk hframed
  markerFirst := fun hm => absurd hk (h.markerFirst hm).1
  armedNoResult := h.armedNoResult
  failureCleared := fun harmed => absurd hs harmed
  requestValid := h.requestValid
  txlenValue := h.txlenValue
  markerRoom := fun _ hframed => absurd hk hframed
  rawNoLength := h.rawNoLength
  doneHasResult := h.doneHasResult

/-- Where nothing is received no marker has been seen (R47 (c)). -/
theorem Inv.marker_of_empty {s : State} (h : Inv s) (hbuf : s.buf = []) : s.marker = false := by
  by_contra hm
  have hfirst := (h.markerFirst (by simpa using hm)).2
  simp [hbuf] at hfirst

/-- A byte pushed to a framed receive, the marker's correction of EXPLEN included (R143): the buffer stays within
the expected length, and that within the capacity. -/
structure FramedPushed (s : State) : Prop extends BufferInv s where
  room : s.buf.length ≤ s.explen.toNat
  capacity : s.explen.toNat ≤ 256
  markerRoom : s.marker = false → s.explen.toNat ≤ 255

theorem Inv.framedPushed {s : State} (h : Inv s) (b : Byte) (hs : s.state = .armed) (hk : s.kind ≠ .raw) :
    FramedPushed { noteMarker b s with buf := s.buf ++ [b] } := by
  obtain ⟨hroom, hmax⟩ := h.framedRoom hs hk
  rcases noteMarker_cases b s with ⟨hbuf, rfl, hnote⟩ | ⟨hfirst, hnote⟩
  · have hmroom := h.markerRoom hs hk (h.marker_of_empty hbuf)
    have hsucc : (s.explen + 1).toNat = s.explen.toNat + 1 := by
      rw [BitVec.toNat_add]
      exact Nat.mod_eq_of_lt (by simp; omega)
    rw [hnote, hbuf]
    exact {
      bufCapacity := by simp
      markerFirst := fun _ => ⟨hk, rfl⟩
      requestValid := h.requestValid
      txlenValue := h.txlenValue
      rawNoLength := fun hraw => absurd hraw hk
      room := hsucc ▸ Nat.le_add_left 1 s.explen.toNat
      capacity := by simp only [hsucc]; omega
      markerRoom := nofun }
  · rw [hnote]
    have hlen : (s.buf ++ [b]).length = s.buf.length + 1 := by simp
    exact {
      bufCapacity := by simp only [hlen]; omega
      markerFirst := fun hm => ⟨hk, by simp [(h.markerFirst hm).2]⟩
      requestValid := h.requestValid
      txlenValue := h.txlenValue
      rawNoLength := h.rawNoLength
      room := by simp only [hlen]; omega
      capacity := hmax
      markerRoom := h.markerRoom hs hk }

/-- A framed receive that goes on is short of its expected length. -/
theorem FramedPushed.inv_of_armed {s : State} (h : FramedPushed s) (hs : s.state = .armed)
    (hresult : s.result = .none) (hlen : s.buf.length ≠ s.explen.toNat) : Inv s where
  bufCapacity := h.bufCapacity
  framedRoom := fun _ _ => ⟨lt_of_le_of_ne h.room hlen, h.capacity⟩
  markerFirst := h.markerFirst
  armedNoResult := fun _ => hresult
  failureCleared := fun harmed => absurd hs harmed
  requestValid := h.requestValid
  txlenValue := h.txlenValue
  markerRoom := fun _ _ => h.markerRoom
  rawNoLength := h.rawNoLength
  doneHasResult := fun hdone => by rw [hs] at hdone; cases hdone

theorem Inv.framedStored {s : State} (h : Inv s) (b : Byte) (hs : s.state = .armed) (hk : s.kind ≠ .raw)
    (hlen : s.buf.length + 1 ≠ (noteMarker b s).explen.toNat) :
    Inv { noteMarker b s with buf := s.buf ++ [b] } :=
  (h.framedPushed b hs hk).inv_of_armed (by simpa using hs) (by simpa using h.armedNoResult hs)
    (by simpa using hlen)

theorem Inv.of_effect {s t : State} {i : Instr} (h : Inv s) (heffect : Effect s i t) : Inv t := by
  cases heffect with
  | unchanged | raised | crcStarted | crcFed | errCleared | startWritten | countWritten | cfgWritten | read =>
    exact h.with_others
  | reset => exact invariantHoldsAtReset.with_others
  | built i k r _ hk _ hr => exact inv_built hk hr
  | rejected => exact inv_rejected s
  | rawArmed => exact inv_rawArmed s
  | rawStored b hs hk hlen => exact h.rawStored b hs hk hlen
  | framedStored b hs hk hlen => exact h.framedStored b hs hk hlen
  | framedEnded b hs hk => exact (h.framedPushed b hs hk).inv_complete
  | overflowed | timedOut | cancelled => exact h.bufferInv.inv_finishWith (by decide)
  | finished => exact h.bufferInv.inv_complete
  | acknowledged hs => exact h.acknowledged hs

/-- Settles O57: an idle step keeps the state, and any other has one of the effects that keep the invariant; the
invariant says nothing of the queue. -/
theorem stepKeepsTheInvariant : Obligations.StepKeepsTheInvariant := by
  intro s t h hstep
  cases hpending : s.pending with
  | nil =>
    rw [step, takeTxn_nil s hpending] at hstep
    cases hstep
    exact h
  | cons x rest =>
    rw [step_of_pending s x rest hpending] at hstep
    exact (h.with_others (pending := rest)).of_effect (effect_of_exec hstep)

end Sys2Proof.Machine

namespace Sys2Proof.Machine

/-! ### The CRC codec (40_crc.md R102, R107) -/

/-- A byte has no bit at or above 8. -/
theorem xor_zextByte_ushiftRight (x : Word) (b : Byte) : (x ^^^ zextByte b) >>> 8 = x >>> 8 := by
  apply BitVec.eq_of_getLsbD_eq
  intro i hi
  simp [zextByte, BitVec.getLsbD_ushiftRight]

theorem getLsbD_xor_zextByte_loByte (x : Word) (i : Nat) (hi : i < 8) :
    (x ^^^ zextByte (loByte x)).getLsbD i = false := by
  simp [zextByte, loByte, hi, show i < 16 by omega]

/-- R102: by linearity eight turns act on the two bytes of a word apart; the high one they only shift down, and what
they make of the low one is its table entry. -/
theorem repeat_crcShift_eq_table (x : Word) : Nat.repeat crcShift 8 x = (x >>> 8) ^^^ crcTable (loByte x) := by
  have hsplit : x = (x ^^^ zextByte (loByte x)) ^^^ zextByte (loByte x) := by
    rw [BitVec.xor_assoc, BitVec.xor_self, BitVec.xor_zero]
  have hhigh := repeat_crcShift_of_lowByte_zero _ (getLsbD_xor_zextByte_loByte x) 8 le_rfl
  have hlow : crcTable (loByte x) = Nat.repeat crcShift 8 (zextByte (loByte x)) :=
    congrArg (Nat.repeat crcShift 8) BitVec.zero_xor
  calc Nat.repeat crcShift 8 x
      = Nat.repeat crcShift 8 (x ^^^ zextByte (loByte x)) ^^^ Nat.repeat crcShift 8 (zextByte (loByte x)) := by
        rw [← repeat_crcShift_xor, ← hsplit]
    _ = (x >>> 8) ^^^ crcTable (loByte x) := by
        rw [hhigh, xor_zextByte_ushiftRight, hlow]

theorem crcStep_eq_table (c : Word) (b : Byte) :
    crcStep c b = (c >>> 8) ^^^ crcTable (loByte (c ^^^ zextByte b)) := by
  rw [crcStep, repeat_crcShift_eq_table, xor_zextByte_ushiftRight]

/-- Settles O13: the two folds have the same step. -/
theorem tableDrivenCrcEqualsBitSerial : Obligations.TableDrivenCrcEqualsBitSerial := by
  intro bs
  simp only [crc16Table, crc16, ← crcStep_eq_table]

/-- Settles O15: folding in a register's own low byte shifts it out, and two such folds empty the register. -/
theorem crcResidueIsZero : Obligations.CrcResidueIsZero := by
  intro bs
  rw [crc16_append, List.foldl_cons, List.foldl_cons, List.foldl_nil, crcStep_own_lowByte, crcStep_own_lowByte,
    ← BitVec.shiftRight_add]
  exact BitVec.ushiftRight_eq_zero (by decide)

/-! ### Runs of the CRC engine (40_crc.md R105, R106) -/

theorem execAll_crcFeeds (bs : List Byte) (s : State) :
    execAll (bs.map .crcFeed) s = .next { s with crc := bs.foldl crcStep s.crc } := by
  induction bs generalizing s with
  | nil => rfl
  | cons b bs ih => exact (execAll_cons_of_next (.crcFeed b) _ s _ rfl).trans (ih _)

/-- Settles O18: CRC.INIT sets the start value of the fold that the CRC.FEEDs carry out. -/
theorem crcEngineComputesTheCrc : Obligations.CrcEngineComputesTheCrc := by
  intro bs s
  rw [execAll_cons_of_next .crcInit _ s { s with crc := crcInitValue } rfl, execAll_crcFeeds]
  rfl

/-! ### The verdict of a CRC-correct frame (43_parse.md R176, R177) -/

/-- Settles O34: with its CRC correct and at least three bytes long, a frame can only fail its minimum; a flipped bit
breaks the CRC. -/
theorem verdictOfACrcCorrectFrame : Obligations.VerdictOfACrcCorrectFrame := by
  intro p bs k hne f
  have hcrc : crcOk f = true := crcOk_append_crc bs
  have hpos : 0 < bs.length := List.length_pos_iff.2 hne
  have hlen : f.length = bs.length + 2 := by simp [f]
  have hlong : 3 ≤ f.length := by omega
  obtain ⟨-, -, hshort, hok⟩ := verdictChecksInOrder p f k
  refine ⟨?_, fun hfail => ?_, fun j n hj hn => ?_⟩
  · have hmin (m : Nat) : m ≤ payloadLen f ↔ m + 3 ≤ bs.length ∨ m = 0 := by
      rw [payloadLen, hlen]
      omega
    simp only [verdict_eq_ok_iff, hlong, hcrc, hmin, true_and]
  · by_contra hother
    exact hfail (hok hlong hcrc fun hpay => hother (hshort hlong hcrc hpay))
  · have hflip := crcOk_set_eq_false bs _ _ _ j hcrc (by omega) (xor_one_shiftLeft_ne _ n hn)
    exact verdict_of_crc_wrong p _ k (by rwa [List.length_set]) hflip

end Sys2Proof.Machine

namespace Sys2Proof.Machine

/-! ### One byte and the end of a receive (42_receive.md R141 to R149, 43_parse.md R170, R175) -/

/-- Settles O23: BUSY while ARMED as for every arm command, otherwise R141's assignments. -/
theorem recvRawArms : Obligations.RecvRawArms :=
  ⟨rfl, fun s => ⟨exec_arm_of_armed rfl s, exec_recvRaw_of_not_armed s⟩⟩

theorem complete_of_ok (s : State) (h : verdict s.params (frame s) s.kind = .ok) :
    complete s = { s with result := .ok, state := .done } := by
  rw [complete, h, finishWith_ok]

theorem complete_of_failure (s : State) (h : verdict s.params (frame s) s.kind ≠ .ok) :
    complete s = { s with
      result := verdict s.params (frame s) s.kind, state := .done, buf := [], marker := false } := by
  rw [complete, finishWith_failure _ s h]

/-- Settles O26: `complete` judges the frame view. -/
theorem finishRecordsTheVerdict : Obligations.FinishRecordsTheVerdict := by
  refine ⟨rfl, fun s => ⟨exec_finish_stray s, fun harmed => ⟨fun hv => ?_, fun hv => ?_⟩⟩⟩
  · rw [exec_finish_armed s harmed, complete_of_ok s hv]
  · rw [exec_finish_armed s harmed, complete_of_failure s hv]
    rfl

theorem noteMarker_of_first {b : Byte} {s : State} (hbuf : s.buf = []) (hb : b = 0x32) :
    noteMarker b s = { s with marker := true, explen := s.explen + 1 } :=
  if_pos ⟨by rw [hbuf]; rfl, hb⟩

theorem noteMarker_of_not_first {b : Byte} {s : State} (h : s.buf ≠ [] ∨ b ≠ 0x32) : noteMarker b s = s :=
  if_neg fun ⟨hlen, hb⟩ => h.elim (absurd (List.length_eq_zero_iff.1 hlen)) (absurd hb)

theorem exec_push_raw_of_not_full (b : Byte) (s : State) (h : s.state = .armed) (hk : s.kind = .raw)
    (hlen : s.buf.length ≠ 256) : exec (.push b) s = .next { s with buf := s.buf ++ [b] } := by
  rw [exec_push_raw b s h hk, pushRaw, if_neg hlen]

theorem exec_push_raw_of_full (b : Byte) (s : State) (h : s.state = .armed) (hk : s.kind = .raw)
    (hlen : s.buf.length = 256) :
    exec (.push b) s = .next { s with result := .overflow, state := .done, buf := [], marker := false } := by
  rw [exec_push_raw b s h hk, pushRaw, if_pos hlen, finishWith_failure _ s (by decide)]

theorem appendFramed_of_ne (b : Byte) (s : State) (h : s.buf.length + 1 ≠ s.explen.toNat) :
    appendFramed b s = { s with buf := s.buf ++ [b] } :=
  if_neg (by simpa using h)

theorem appendFramed_of_eq (b : Byte) (s : State) (h : s.buf.length + 1 = s.explen.toNat) :
    appendFramed b s = complete { s with buf := s.buf ++ [b] } :=
  if_pos (by simpa using h)

/-- R143: a first byte 0x32 that leaves the receive open. -/
theorem exec_push_marker (s : State) (h : s.state = .armed) (hk : s.kind ≠ .raw) (hbuf : s.buf = [])
    (hlen : (s.explen + 1).toNat ≠ 1) :
    exec (.push 0x32) s = .next { s with marker := true, explen := s.explen + 1, buf := [0x32] } := by
  rw [exec_push_framed _ s h hk, noteMarker_of_first hbuf rfl,
    appendFramed_of_ne _ _ (by simpa [hbuf] using hlen.symm), hbuf, List.nil_append]

theorem exec_push_framed_of_ne (b : Byte) (s : State) (h : s.state = .armed) (hk : s.kind ≠ .raw)
    (hfirst : s.buf ≠ [] ∨ b ≠ 0x32) (hlen : s.buf.length + 1 ≠ s.explen.toNat) :
    exec (.push b) s = .next { s with buf := s.buf ++ [b] } := by
  rw [exec_push_framed b s h hk, noteMarker_of_not_first hfirst, appendFramed_of_ne b s hlen]

theorem exec_push_framed_of_eq (b : Byte) (s : State) (h : s.state = .armed) (hk : s.kind ≠ .raw)
    (hfirst : s.buf ≠ [] ∨ b ≠ 0x32) (hlen : s.buf.length + 1 = s.explen.toNat) :
    exec (.push b) s = .next (complete { s with buf := s.buf ++ [b] }) := by
  rw [exec_push_framed b s h hk, noteMarker_of_not_first hfirst, appendFramed_of_eq b s hlen]

/-- Settles O24: below its capacity a RAW receive goes on, and a framed one does short of its expected length, which
a marker raises first. -/
theorem pushStoresOneByte : Obligations.PushStoresOneByte := by
  intro b s h
  refine ⟨exec_push_raw_of_not_full b s h, ?_, exec_push_framed_of_ne b s h⟩
  rintro hk hbuf rfl hlen
  exact exec_push_marker s h hk hbuf hlen

/-- A framed receive whose expected length the marker raises to 1 ends with the marker alone, an empty frame. -/
theorem exec_push_marker_ends (s : State) (h : s.state = .armed) (hk : s.kind ≠ .raw) (hbuf : s.buf = [])
    (hlen : (s.explen + 1).toNat = 1) :
    exec (.push 0x32) s = .next { s with
      explen := s.explen + 1, result := .malformedFrame, state := .done, buf := [], marker := false } := by
  have hshort : verdict s.params (frame { s with marker := true, explen := s.explen + 1, buf := s.buf ++ [0x32] })
      s.kind = .malformedFrame := verdict_of_short _ _ _ (by simp [frame, hbuf])
  rw [exec_push_framed _ s h hk, noteMarker_of_first hbuf rfl,
    appendFramed_of_eq _ _ (by simpa [hbuf] using hlen.symm), complete, hshort, finishWith_failure _ _ (by decide)]

/-- Settles O25: the byte past a RAW receive's capacity is not appended; the byte that reaches EXPLEN is judged. -/
theorem pushEndsTheReceive : Obligations.PushEndsTheReceive := by
  intro b s h
  refine ⟨exec_push_raw_of_full b s h, ?_, fun hk hfirst hlen => ?_⟩
  · rintro hk hbuf rfl hlen
    exact exec_push_marker_ends s h hk hbuf hlen
  · intro f
    rw [exec_push_framed_of_eq b s h hk hfirst hlen]
    exact ⟨fun hv => congrArg _ (complete_of_ok _ hv), fun hv => congrArg _ (complete_of_failure _ hv)⟩

end Sys2Proof.Machine

namespace Sys2Proof.Machine

/-! ### Runs of bytes (42_receive.md R142 to R154) -/

theorem pushAll_cons_of_next {b : Byte} {s t : State} (bs : List Byte) (h : exec (.push b) s = .next t) :
    pushAll (b :: bs) s = pushAll bs t := execAll_cons_of_next (.push b) _ s t h

theorem pushAll_nil (s : State) : pushAll [] s = .next s := rfl

theorem pushAll_singleton_of_next {b : Byte} {s t : State} (h : exec (.push b) s = .next t) :
    pushAll [b] s = .next t := pushAll_cons_of_next [] h

theorem pushAll_raw (bs : List Byte) (s : State) (h : s.state = .armed) (hk : s.kind = .raw)
    (hroom : s.buf.length + bs.length ≤ 256) : pushAll bs s = .next { s with buf := s.buf ++ bs } := by
  induction bs generalizing s with
  | nil => rw [List.append_nil, pushAll_nil]
  | cons b bs ih =>
    rw [List.length_cons] at hroom
    rw [pushAll_cons_of_next bs (exec_push_raw_of_room b s h hk (by omega)),
      ih { s with buf := s.buf ++ [b] } h hk (by simp; omega), List.append_assoc, List.singleton_append]

/-- A framed receive short of its expected length only stores. -/
theorem pushAll_framed_short (bs : List Byte) (s : State) (h : s.state = .armed) (hk : s.kind ≠ .raw)
    (hfirst : s.buf ≠ [] ∨ bs.head? ≠ some 0x32) (hroom : s.buf.length + bs.length < s.explen.toNat) :
    pushAll bs s = .next { s with buf := s.buf ++ bs } := by
  induction bs generalizing s with
  | nil => rw [List.append_nil, pushAll_nil]
  | cons b bs ih =>
    rw [List.length_cons] at hroom
    have hb : s.buf ≠ [] ∨ b ≠ 0x32 := by simpa using hfirst
    rw [pushAll_cons_of_next bs (exec_push_framed_of_ne b s h hk hb (by omega)),
      ih { s with buf := s.buf ++ [b] } h hk (.inl (by simp)) (by simp; omega), List.append_assoc,
      List.singleton_append]

/-- The byte that reaches the expected length has the receive judged (R144). -/
theorem pushAll_framed_full (bs : List Byte) (s : State) (h : s.state = .armed) (hk : s.kind ≠ .raw)
    (hfirst : s.buf ≠ [] ∨ bs.head? ≠ some 0x32) (hne : bs ≠ [])
    (hlen : s.buf.length + bs.length = s.explen.toNat) :
    pushAll bs s = .next (complete { s with buf := s.buf ++ bs }) := by
  obtain ⟨init, b, rfl⟩ := (List.eq_nil_or_concat' bs).resolve_left hne
  rw [List.length_append, List.length_singleton] at hlen
  have hinit : s.buf ≠ [] ∨ init.head? ≠ some 0x32 := by
    cases init with
    | nil => simp
    | cons => simpa using hfirst
  have hb : s.buf ++ init ≠ [] ∨ b ≠ 0x32 := by
    cases init with
    | nil => simpa using hfirst
    | cons => simp
  rw [pushAll_append init [b] _ _ (pushAll_framed_short init s h hk hinit (by omega)),
    pushAll_singleton_of_next (exec_push_framed_of_eq b { s with buf := s.buf ++ init } h hk hb (by simp; omega)),
    List.append_assoc]

theorem pushAll_stray (bs : List Byte) (s : State) (h : s.state ≠ .armed) (hne : bs ≠ []) :
    pushAll bs s = .next (raise .notArmed s) := by
  rw [(strayBytesAreDiscarded bs s h).1 hne, raise_notArmed]

theorem frame_of_not_marker {s : State} (h : s.marker = false) : frame s = s.buf := by
  rw [frame, h]
  rfl

/-- Settles O29: the last byte has the response judged, which without a marker is the whole buffer. -/
theorem responseDeliveryGivesItsVerdict : Obligations.ResponseDeliveryGivesItsVerdict := by
  intro s g h hk hbuf hmarker hne hfirst hlen
  have hrun := pushAll_framed_full g s h hk (.inr hfirst) hne (by simp [hbuf, hlen])
  rw [hbuf, List.nil_append] at hrun
  have hframe : frame { s with buf := g } = g := frame_of_not_marker hmarker
  refine ⟨fun hv => ?_, fun hv => ?_⟩
  · rw [hrun, complete_of_ok _ (by rwa [hframe])]
  · rw [hrun, complete_of_failure _ (by rwa [hframe]), hframe, ← hbuf, ← hmarker]

/-! ### The same response with a marker byte (42_receive.md R143, R148) -/

/-- The state of a framed receive had a marker byte come first. -/
def withMarker (s : State) : State :=
  { s with marker := true, explen := s.explen + 1, buf := 0x32 :: s.buf }

/-- `u` is what `t` would be with a marker byte before the response: the frame view and the outcome are the same. -/
structure MarkerTwin (t u : State) : Prop where
  state : u.state = t.state
  result : u.result = t.result
  kind : u.kind = t.kind
  err : u.err = t.err
  frame : frame u = frame t
  explen : u.explen = t.explen + 1
  kept : t.state = .armed ∨ t.result = .ok → t.marker = false ∧ u.marker = true ∧ u.buf.length = t.buf.length + 1

theorem frame_withMarker {s : State} (h : s.marker = false) : frame (withMarker s) = frame s := by
  rw [frame_of_not_marker h]
  rfl

theorem markerTwin_withMarker {s : State} (h : s.marker = false) : MarkerTwin s (withMarker s) :=
  ⟨rfl, rfl, rfl, rfl, frame_withMarker h, rfl, fun _ => ⟨h, rfl, rfl⟩⟩

theorem markerTwin_complete {s : State} (h : s.marker = false) :
    MarkerTwin (complete s) (complete (withMarker s)) := by
  have hframe := frame_withMarker h
  by_cases hv : verdict s.params (frame s) s.kind = .ok
  · rw [complete_of_ok s hv, complete_of_ok (withMarker s) (by rwa [hframe])]
    exact ⟨rfl, rfl, rfl, rfl, hframe, rfl, fun _ => ⟨h, rfl, rfl⟩⟩
  · rw [complete_of_failure s hv, complete_of_failure (withMarker s) (by rwa [hframe]), hframe]
    exact ⟨rfl, rfl, rfl, rfl, rfl, rfl, fun hkept => absurd hkept (by simp [hv])⟩

theorem MarkerTwin.raise {t u : State} (h : MarkerTwin t u) (e : CmdError) : MarkerTwin (raise e t) (raise e u) :=
  { h with err := by rw [raise_err, raise_err, h.err] }

/-- Bytes after the end of both receives are stray in both. -/
theorem MarkerTwin.exists_stray {t u : State} (h : MarkerTwin t u) (bs : List Byte) (ht : t.state = .done) :
    ∃ t' u', pushAll bs t = .next t' ∧ pushAll bs u = .next u' ∧ MarkerTwin t' u' ∧ t'.state = .done := by
  have hdone {v : State} (hv : v.state = .done) : v.state ≠ .armed := by rw [hv]; decide
  cases bs with
  | nil => exact ⟨t, u, rfl, rfl, h, ht⟩
  | cons b bs =>
    exact ⟨_, _, pushAll_stray _ t (hdone ht) (List.cons_ne_nil b bs),
      pushAll_stray _ u (hdone (h.state.trans ht)) (List.cons_ne_nil b bs), h.raise .notArmed, ht⟩

theorem toNat_explen_succ {s : State} (h : s.explen.toNat ≤ 255) : (s.explen + 1).toNat = s.explen.toNat + 1 := by
  rw [BitVec.toNat_add]
  exact Nat.mod_eq_of_lt (by simp; omega)

theorem exists_markerTwin (s : State) (g : List Byte) (h : s.state = .armed) (hk : s.kind ≠ .raw)
    (hbuf : s.buf = []) (hmarker : s.marker = false) (hpos : 0 < s.explen.toNat) (hmax : s.explen.toNat ≤ 255)
    (hfirst : g.head? ≠ some 0x32) :
    ∃ t u, pushAll g s = .next t ∧ pushAll g (withMarker s) = .next u ∧ MarkerTwin t u ∧
      (s.explen.toNat ≤ g.length → t.state = .done) := by
  have hsucc : (withMarker s).explen.toNat = s.explen.toNat + 1 := toNat_explen_succ hmax
  have hlen : s.buf.length = 0 := by rw [hbuf]; rfl
  have hlen' : (withMarker s).buf.length = 1 := congrArg Nat.succ hlen
  have hne : (withMarker s).buf ≠ [] := List.cons_ne_nil _ _
  by_cases hshort : g.length < s.explen.toNat
  · exact ⟨_, _, pushAll_framed_short g s h hk (.inr hfirst) (by omega),
      pushAll_framed_short g (withMarker s) h hk (.inl hne) (by omega),
      markerTwin_withMarker (s := { s with buf := s.buf ++ g }) hmarker, fun hlong => absurd hlong (by omega)⟩
  · have hsplit := List.take_append_drop s.explen.toNat g
    have htake : (g.take s.explen.toNat).length = s.explen.toNat := List.length_take_of_le (by omega)
    have hnonempty : g.take s.explen.toNat ≠ [] := List.ne_nil_of_length_pos (by omega)
    have hhead : (g.take s.explen.toNat).head? ≠ some 0x32 := by
      rwa [List.head?_take, if_neg (by omega)]
    have ht := pushAll_framed_full _ s h hk (.inr hhead) hnonempty (by omega)
    have hu := pushAll_framed_full _ (withMarker s) h hk (.inl hne) hnonempty (by omega)
    have htwin : MarkerTwin _ _ := markerTwin_complete (s := { s with buf := s.buf ++ g.take s.explen.toNat }) hmarker
    obtain ⟨t', u', ht', hu', htwin', hdone⟩ := htwin.exists_stray (g.drop s.explen.toNat) rfl
    rw [← hsplit]
    exact ⟨t', u', (pushAll_append _ _ _ _ ht).trans ht', (pushAll_append _ _ _ _ hu).trans hu', htwin',
      fun _ => hdone⟩

/-- Settles O30: the marker byte alone makes the state `withMarker`, from which the same response leads to a twin. -/
theorem markerByteChangesNoVerdict : Obligations.MarkerByteChangesNoVerdict := by
  intro s g h hk hbuf hmarker hpos hmax _ hfirst
  obtain ⟨t, u, ht, hu, htwin, hdone⟩ := exists_markerTwin s g h hk hbuf hmarker hpos hmax hfirst
  have hopen : (s.explen + 1).toNat ≠ 1 := by rw [toNat_explen_succ hmax]; omega
  have hpush : exec (.push 0x32) s = .next (withMarker s) := by
    rw [exec_push_marker s h hk hbuf hopen, withMarker, hbuf]
  exact ⟨t, u, ht, (pushAll_cons_of_next g hpush).trans hu, htwin.state, htwin.result, htwin.kind, htwin.err,
    htwin.frame, htwin.explen, fun a ha => readReg_frame a t u htwin.frame ha, hdone, htwin.kept⟩

/-! ### RAW receives (42_receive.md R141, R146, R149) -/

/-- The state RECV.RAW arms, after some bytes. -/
def rawReceiving (bs : List Byte) (s : State) : State :=
  { s with kind := .raw, marker := false, buf := bs, txlen := 0, explen := 0, result := .none, state := .armed }

theorem execAll_recvRaw_pushes (bs : List Byte) (is : List Instr) (s : State) (h : s.state ≠ .armed)
    (hlen : bs.length ≤ 256) :
    execAll (.recvRaw :: (bs.map .push ++ is)) s = execAll is (rawReceiving bs s) := by
  have hrun := pushAll_raw bs (rawReceiving [] s) rfl rfl (by simpa [rawReceiving] using hlen)
  rw [execAll_cons_of_next _ _ s (rawReceiving [] s) (exec_recvRaw_of_not_armed s h), execAll_append _ _ _ _ hrun]
  rfl

/-- Settles O31: the bytes that fit are stored and judged as they are; a full buffer refuses one more. -/
theorem rawReceiveJudgesItsBytes : Obligations.RawReceiveJudgesItsBytes := by
  refine ⟨fun s bs h hlen => ?_, fun s bs h hlen => ?_⟩
  · rw [execAll_recvRaw_pushes bs _ s h hlen,
      execAll_cons_of_next _ _ _ _ (exec_finish_armed (rawReceiving bs s) rfl)]
    exact ⟨_, rfl, rfl, rfl, rfl, rfl, ite_self _, rfl, rfl, rfl, rfl⟩
  · have hne : bs ≠ [] := List.ne_nil_of_length_pos (by omega)
    obtain ⟨init, b, rfl⟩ := (List.eq_nil_or_concat' bs).resolve_left hne
    have hinit : init.length = 256 := by simpa using hlen
    rw [List.map_append, execAll_recvRaw_pushes init _ s h hinit.le]
    exact ⟨_, pushAll_singleton_of_next (exec_push_raw_of_full b (rawReceiving init s) rfl rfl hinit),
      rfl, rfl, rfl, rfl, rfl⟩

/-! ### A deadline at the time of the last byte (60_exceptions.md R218) -/

/-- Settles O32: whichever of the two comes first ends the receive, and the other finds no receive. -/
theorem deadlineRaceIsSettledByOrder : Obligations.DeadlineRaceIsSettledByOrder := by
  intro b s t h _ hdone
  have ht : t.state ≠ .armed := by rw [hdone]; decide
  refine ⟨(abortEndsOnlyAReceive t).2 ht |>.1, _, ((abortEndsOnlyAReceive s).1 h).1, rfl, rfl, rfl, ?_⟩
  exact exec_push_stray b _ nofun

end Sys2Proof.Machine

namespace Sys2Proof.Machine

/-! ### Reads after reset and after a failure (10_state.md R46, 43_parse.md R179) -/

theorem readReg_reset_control : ∀ n < 0x010, readReg (BitVec.ofNat 9 n) State.reset =
    if BitVec.ofNat 9 n = 0x006#9 ∨ BitVec.ofNat 9 n = 0x00A#9 then 0xFFFF else 0x0000 := by decide

/-- TXBUF holds zeros and the frame is empty, so both windows read 0 as the range between them does. -/
theorem readReg_reset_window (a : Addr) (h : 0x010 ≤ a.toNat) : readReg a State.reset = 0x0000 := by
  have htx (k : Nat) : (txBytes State.reset.txbuf).getD k 0 = 0 :=
    List.getElem?_getD_replicate_default_eq (d := (0 : Byte)) 8 k
  rw [readReg_window a _ h, readWindow, htx]
  split
  · rfl
  · split
    · rfl
    · rfl

theorem readReg_reset (a : Addr) :
    readReg a State.reset = if a = 0x006 ∨ a = 0x00A then 0xFFFF else 0x0000 := by
  by_cases h : a.toNat < 0x010
  · have hcontrol := readReg_reset_control a.toNat h
    rwa [BitVec.ofNat_toNat, BitVec.setWidth_eq] at hcontrol
  · rw [readReg_reset_window a (by omega), if_neg]
    rintro (rfl | rfl) <;> exact h (by decide)

/-- Settles O40: the fields are the definition's own, the registers below 0x010 are read one by one. -/
theorem resetValuesOfStateAndViews : Obligations.ResetValuesOfStateAndViews :=
  ⟨rfl, rfl, rfl, rfl, rfl, rfl, rfl, rfl, rfl, rfl, rfl, rfl, rfl, rfl, readReg_reset⟩

/-- Settles O37: by the invariant the buffer is empty and so is the frame view, as after reset. -/
theorem failedFrameReadsEmpty : Obligations.FailedFrameReadsEmpty := by
  intro s h hs hnone hok
  obtain ⟨hbuf, hmarker⟩ := h.failureCleared hs hnone hok
  have hframe : frame s = frame State.reset := (frame_of_not_marker hmarker).trans hbuf
  have hrxlen : readReg 0x008 s = lengthWord s.buf.length := rfl
  have hread (a : Addr) (ha : (0x009 ≤ a.toNat ∧ a.toNat ≤ 0x00E) ∨ 0x100 ≤ a.toNat) :
      readReg a s = if a = 0x006 ∨ a = 0x00A then 0xFFFF else 0x0000 :=
    (readReg_frame a State.reset s hframe ha).trans (readReg_reset a)
  refine ⟨by rw [hrxlen, hbuf]; rfl, hread 0x009 (by decide), hread 0x00A (by decide), hread 0x00B (by decide),
    hread 0x00C (by decide), hread 0x00D (by decide), hread 0x00E (by decide), fun a ha => ?_⟩
  rw [hread a (.inr ha), if_neg]
  rintro (rfl | rfl) <;> exact absurd ha (by decide)

end Sys2Proof.Machine
